-- ==== Sys2Proof/Word.lean ====
section
/-! DEFINITION. The word types of the Acrel frame codec engine (spec/00_scope.md R8). -/

namespace Sys2Proof

/-- A byte: a buffer byte, a function code, an opcode (R8). -/
abbrev Byte := BitVec 8

/-- A 16-bit value: a checksum, a length register (R8). -/
abbrev Half := BitVec 16

/-- A 32-bit value: a register, host bus data, a command word (R8, R90). -/
abbrev Word := BitVec 32

/-- A host bus offset in the 64 KiB register window (R8, R60). -/
abbrev Offset := BitVec 16

end Sys2Proof
end

