-- ==== Sys2Proof/Config.lean ====
section
/-! DEFINITION. The constants of the protocol and of the address map, the open parameter BUF_BYTES, and the free
values the spec leaves unspecified. -/

namespace Sys2Proof

namespace Config

/-- START (R9): emitted twice by ENCODE; mask of the start check in DECODE. -/
def startByte : Byte := 0x7B

/-- END (R9): emitted twice by ENCODE; mask of the end check in DECODE. -/
def endByte : Byte := 0x7D

/-- MIN_FRAME (R9, R98): 2 start + 1 function + 0 data + 2 crc + 2 end. -/
def minFrame : Nat := 7

/-- CRC_POLY (R9, R141). -/
def crcPoly : Half := 0xA001

/-- CRC_INIT (R9, R141). CRC_XOROUT is 0x0000: there is no final XOR, so no constant is needed for it. -/
def crcInit : Half := 0xFFFF

/-- Window offset of IN (R61); the registers and the unmapped hole above them lie below it. -/
def inBase : Nat := 0x1000

/-- Window offset of OUT (R61). -/
def outBase : Nat := 0x2000

/-- Window offset of DATA (R61). -/
def dataBase : Nat := 0x3000

/-- The highest offset of the 64 KiB window (R60, R66). -/
def lastOffset : Nat := 0xFFFF

/-- The constant of the ID register (R23). -/
def idValue : Word := 0x41430001

/-- The value of a buffer byte that nothing has written since the reset numbered `epoch`, at a window offset: not
specified, but fixed until it is written (R71, R242). FREE VALUE: no body, so nothing can be proved of it (log 4). -/
opaque unwrittenByte (epoch : Nat) (offset : Nat) : Byte

/-- What the `k`-th host read of a location in the running command's write set returns (R76): any value, which may
differ between two such reads. FREE VALUE: no body (log 5). -/
opaque busyRead (k : Nat) : Word

end Config

/-- The build-time parameters (R5). Every term is legal: `maxData` runs over 0 to 4089, so BUF_BYTES runs over
7 to 4096. -/
structure Params where
  /-- MAX_DATA, the capacity of the DATA buffer. -/
  maxData : Fin 4090
deriving DecidableEq, Repr

/-- BUF_BYTES, the capacity of IN and of OUT: MAX_DATA + 7 (R5). -/
def Params.bufBytes (p : Params) : Nat := p.maxData.val + 7

/-- The parameter value of `State.reset`: BUF_BYTES = 256, as in the spec's test vectors.
DESIGN CHOICE (log 3): the spec leaves it open. -/
def Params.testVectors : Params := ⟨249⟩

end Sys2Proof
end

