-- ==== Sys2Proof/Machine/Crc16.lean ====
section
/-! DEFINITION. The CRC16-Modbus unit (spec/41_crc.md R140 to R142). -/

namespace Sys2Proof.Machine

/-- One step of the inner loop: a right shift, and the polynomial XORed in when the bit shifted out is 1 (R140). -/
def crcStep (c : Half) : Half := if c.getLsbD 0 then (c >>> 1) ^^^ Config.crcPoly else c >>> 1

/-- `n` steps of the inner loop. -/
def crcSteps : Nat → Half → Half
  | 0, c => c
  | n + 1, c => crcSteps n (crcStep c)

/-- One byte into the register: XORed in at the low end, then eight steps (R140). -/
def crcByte (c : Half) (b : Byte) : Half := crcSteps 8 (c ^^^ b.setWidth 16)

/-- The register run over a sequence from an initial value; `crc0` of R145 starts at 0. -/
def crcFrom (c : Half) (s : List Byte) : Half := s.foldl crcByte c

/-- `crc16(s)` (R140): initial value 0xFFFF, no final XOR. -/
def crc16 (s : List Byte) : Half := crcFrom Config.crcInit s

/-- crc_lo, the checksum byte at the lower index of a wire frame (R96). -/
def crcLo (c : Half) : Byte := c.setWidth 8

/-- crc_hi (R96). -/
def crcHi (c : Half) : Byte := (c >>> 8).setWidth 8

/-- The checksum read back from its two bytes: `lo | (hi << 8)` (R96, R164). -/
def crcOfBytes (lo hi : Byte) : Half := lo.setWidth 16 ||| (hi.setWidth 16 <<< 8)

end Sys2Proof.Machine
end

