-- ==== Sys2Proof/Syntax.lean ====
section
/-! DEFINITION. The commands of the block (one constructor per row of spec/opcode_table.json), the registers and
windows of its address map, and the notation of a host program (spec/30_encoding.md R90 to R92, R100 to R102). -/

namespace Sys2Proof

/-- A command (R91, R92). The six ILLEGAL rows together cover 0x04 to 0xFF; their operand is the whole opcode OP,
and `Instr.wellFormed` says which values a row admits. -/
inductive Instr where
  /-- OP 0x00 (R126). -/
  | nop
  /-- OP 0x01 (R160). -/
  | decode
  /-- OP 0x02 (R190). -/
  | encode
  /-- OP 0x03 (R143). -/
  | crc
  /-- OP 0x04 to 0x07 (R127). -/
  | illegal04 (op : Byte)
  /-- OP 0x08 to 0x0F (R127). -/
  | illegal08 (op : Byte)
  /-- OP 0x10 to 0x1F (R127). -/
  | illegal10 (op : Byte)
  /-- OP 0x20 to 0x3F (R127). -/
  | illegal20 (op : Byte)
  /-- OP 0x40 to 0x7F (R127). -/
  | illegal40 (op : Byte)
  /-- OP 0x80 to 0xFF (R127). -/
  | illegal80 (op : Byte)
deriving DecidableEq, Repr

/-- The eleven registers (R21, R61). -/
inductive Reg where
  | id | ctrl | cmd | status | inLen | outLen | func | dataLen | rxCrc | calcCrc | param
deriving DecidableEq, Repr

/-- The three byte buffers and their host windows (R39 to R41, R61). -/
inductive Window where
  | input | output | data
deriving DecidableEq, Repr

/-- The result codes a command can finish with (R29). Codes 4, 5 and 6 are reserved and have no constructor. -/
inductive ResultCode where
  | ok | frameTooShort | delimiterError | checksumMismatch | illegalCommand
deriving DecidableEq, Repr

/-- A value in a host program: a number or a host variable (R100). A command mnemonic stands for its opcode, a number. -/
inductive HostValue where
  | num (v : Word)
  /-- `$x`; variables are numbered. -/
  | var (x : Nat)
deriving DecidableEq, Repr

/-- A statement of a host program (R100). `n` is the access size in bytes: 1, 2, 4 for `.B`, `.H`, `.W`; any other
size can be written here, so that the bus error R62 gives it can be met by a run. -/
inductive HostStmt where
  /-- `WR.n a, v`. -/
  | wr (n : Nat) (a : Offset) (v : HostValue)
  /-- `RD.n a -> $x`. -/
  | rd (n : Nat) (a : Offset) (x : Nat)
  /-- `POLL.W a, m, v`. That the mask `m` may be whatever `v` may be, a variable included: DESIGN CHOICE (log 24). -/
  | poll (a : Offset) (m v : HostValue)
  /-- `EXPECT $x, v`. -/
  | expect (x : Nat) (v : HostValue)
deriving DecidableEq, Repr

/-- A bus transaction (R102). -/
inductive Transaction where
  | write (n : Nat) (a : Offset) (v : Word)
  | read (n : Nat) (a : Offset)
deriving DecidableEq, Repr

/-- The one response an access gets (R62, R219). -/
inductive Response where
  /-- A read's data, zero-extended to the bus width. -/
  | data (v : Word)
  /-- A write that gets no bus error: stored, ignored or refused (the response does not tell which). -/
  | accepted
  /-- `raise BusError` (R62, R215). -/
  | busError
deriving DecidableEq, Repr

/-- Whose step is next (R20): the agents that can change the state. -/
inductive Turn where
  | host | engine | reset
deriving DecidableEq, Repr

end Sys2Proof
end

