-- ==== Sys2Proof/WellFormed.lean ====
section
/-! DEFINITION. Which terms of `Instr` are commands of spec/opcode_table.json: the opcode of an ILLEGAL row lies in
that row's range (R92; the rows' match and mask). -/

namespace Sys2Proof

/-- The row's check on its operand: OP masked by the row's mask is the row's match (R90). -/
def Instr.wellFormed : Instr → Bool
  | .nop => true
  | .decode => true
  | .encode => true
  | .crc => true
  | .illegal04 op => op &&& 0xFC == 0x04
  | .illegal08 op => op &&& 0xF8 == 0x08
  | .illegal10 op => op &&& 0xF0 == 0x10
  | .illegal20 op => op &&& 0xE0 == 0x20
  | .illegal40 op => op &&& 0xC0 == 0x40
  | .illegal80 op => op &&& 0x80 == 0x80

end Sys2Proof
end

