-- ==== Sys2Proof/Decode.lean ====
section
/-! DEFINITION. The command word's decoder and encoder (spec/30_encoding.md R90 to R92; spec/opcode_table.json), and
the table's rows as data. -/

namespace Sys2Proof

/-- Why bytes are not a command word. Raised by `decode` only; safe, since the bus delivers whole words (R63, R90). -/
inductive DecodeError where
  /-- Fewer than the four bytes of a command word (R90). -/
  | truncated
deriving DecidableEq, Repr

/-- The command of an opcode OP. Every value is one: 0x00 to 0x03 are assigned (R91), the others reserved (R92). -/
def decodeOp (op : Byte) : Instr :=
  if op = 0x00 then .nop
  else if op = 0x01 then .decode
  else if op = 0x02 then .encode
  else if op = 0x03 then .crc
  else if op &&& 0xFC = 0x04 then .illegal04 op
  else if op &&& 0xF8 = 0x08 then .illegal08 op
  else if op &&& 0xF0 = 0x10 then .illegal10 op
  else if op &&& 0xE0 = 0x20 then .illegal20 op
  else if op &&& 0xC0 = 0x40 then .illegal40 op
  else .illegal80 op

/-- The field OP of a command word: bits [7:0]; bits [31:8] take no part in decoding (R25, R90). -/
def opField (w : Word) : Byte := w.setWidth 8

/-- The command of a 32-bit command word (R90). -/
def decodeWord (w : Word) : Instr := decodeOp (opField w)

/-- A word from its four bytes, lowest address first (R64). -/
def wordOfBytes (b0 b1 b2 b3 : Byte) : Word :=
  b0.setWidth 32 ||| (b1.setWidth 32 <<< 8) ||| (b2.setWidth 32 <<< 16) ||| (b3.setWidth 32 <<< 24)

/-- The four bytes of a word, lowest address first (R64). -/
def bytesOfWord (w : Word) : List Byte :=
  [w.setWidth 8, (w >>> 8).setWidth 8, (w >>> 16).setWidth 8, (w >>> 24).setWidth 8]

/-- Decoding, total on any bytes: the command of the first four, and the bytes after them. -/
def decode : List Byte → Except DecodeError (Instr × List Byte)
  | b0 :: b1 :: b2 :: b3 :: rest => .ok (decodeWord (wordOfBytes b0 b1 b2 b3), rest)
  | _ => .error .truncated

/-- The opcode of a command (R91, R92). -/
def Instr.opcode : Instr → Byte
  | .nop => 0x00
  | .decode => 0x01
  | .encode => 0x02
  | .crc => 0x03
  | .illegal04 op => op
  | .illegal08 op => op
  | .illegal10 op => op
  | .illegal20 op => op
  | .illegal40 op => op
  | .illegal80 op => op

/-- The command word of a command, its reserved bits [31:8] zero (R90). -/
def encodeWord (i : Instr) : Word := i.opcode.setWidth 32

/-- The bytes of a command's word. -/
def encode (i : Instr) : List Byte := bytesOfWord (encodeWord i)

/-- A row of spec/opcode_table.json: a word selects it when the word masked by `mask` is `pattern` (R90). -/
structure Row where
  mnemonic : String
  pattern : Word
  mask : Word
deriving DecidableEq, Repr

/-- The rows of spec/opcode_table.json, in its order. -/
def opcodeTable : List Row :=
  [⟨"NOP", 0x00000000, 0x000000FF⟩, ⟨"DECODE", 0x00000001, 0x000000FF⟩,
   ⟨"ENCODE", 0x00000002, 0x000000FF⟩, ⟨"CRC", 0x00000003, 0x000000FF⟩,
   ⟨"ILLEGAL", 0x00000004, 0x000000FC⟩, ⟨"ILLEGAL", 0x00000008, 0x000000F8⟩,
   ⟨"ILLEGAL", 0x00000010, 0x000000F0⟩, ⟨"ILLEGAL", 0x00000020, 0x000000E0⟩,
   ⟨"ILLEGAL", 0x00000040, 0x000000C0⟩, ⟨"ILLEGAL", 0x00000080, 0x00000080⟩]

/-- The word selects the row (R90). -/
def Row.selects (r : Row) (w : Word) : Bool := w &&& r.mask == r.pattern

/-- The index in `opcodeTable` of a command's row. -/
def Instr.rowIndex : Instr → Nat
  | .nop => 0
  | .decode => 1
  | .encode => 2
  | .crc => 3
  | .illegal04 _ => 4
  | .illegal08 _ => 5
  | .illegal10 _ => 6
  | .illegal20 _ => 7
  | .illegal40 _ => 8
  | .illegal80 _ => 9

/-- The bits of a command as spec/opcode_table.json numbers them, in whole bytes; the bits above `nbits` are zero. -/
def tableWord (nbits w : Nat) : Word := BitVec.ofNat 32 (w % 2 ^ nbits)

/-- What the decoder reads from an instruction whose bits are `w`: its word's bytes, lowest first, given to `decode`. -/
def decodeTableWord (nbits w : Nat) : Option Instr :=
  match decode (bytesOfWord (tableWord nbits w)) with
  | .ok (i, _) => some i
  | .error _ => none

end Sys2Proof
end

