-- ==== Sys2Proof/Machine/State.lean ====
section
/-! DEFINITION. The state of the machine (spec/10_state.md R21), the HOST agent's state, the reasons a step can stop,
and the state after reset (spec/70_reset_and_hazards.md R241). -/

namespace Sys2Proof.Machine

/-- Why a step can stop with a fault. The block itself has none (R210, R217: no outcome halts it). -/
inductive Fault where
  /-- The engine has the turn, STATUS.BUSY = 1 and there is no PENDING_OP. Raised by `engineTurn`, only in states no
  run reaches (R45, R120: an issue sets both); safe: the machine stops where nothing is specified (log 13). -/
  | busyWithoutCommand
deriving DecidableEq, Repr

/-- Why a step can be refused. No instruction of this machine is. -/
inductive Refusal where
  /-- An instruction without a meaning in `exec`, by its mnemonic. Raised by no arm: every command has its meaning. Safe. -/
  | notModelled (mnemonic : String)
deriving DecidableEq, Repr

/-- The buffer bytes that were written since reset, keyed by window offset (R61): a list of cells whose offsets
strictly rise. An offset that is not listed holds no written value and reads as `Config.unwrittenByte` (R71). -/
abbrev Memory := List Host.Cell

/-- The canonical form: offsets strictly rising. No entry can equal what an unlisted offset holds, since that is no
value at all (log 6). -/
abbrev Memory.wf (m : Memory) : Prop := m.Pairwise (fun c d => c.1 < d.1)

/-- Whether the host program can go on (R100). -/
inductive HostStatus where
  | running
  /-- The statement at the head of the program got a bus error, which ends the program (R100). -/
  | busError
  /-- The EXPECT at the head of the program failed (log 8). -/
  | expectFailed
  /-- The statement at the head of the program uses a variable that nothing has read (log 9). -/
  | unboundVariable
deriving DecidableEq, Repr

/-- The HOST agent (R20, R100): the MODEL's field, an input of the block. -/
structure HostAgent where
  /-- The statements still to run; the statement that ended a program stays at its head. -/
  program : List HostStmt
  /-- The host variables read so far, by number, numbers strictly rising. -/
  vars : List (Nat × Word)
  status : HostStatus
  /-- Every bus transaction with its response, oldest first (R102). -/
  log : List (Transaction × Response)
deriving DecidableEq, Repr

/-- The state. The first group is the block's own (R21); the second is the model's (INVENTORY.md '## State'). -/
structure State where
  /-- CTRL.IE (R24). -/
  ie : Bool
  /-- CMD.OP (R25). -/
  cmdOp : Byte
  /-- STATUS.BUSY (R26). -/
  busy : Bool
  /-- STATUS.DONE (R27). -/
  done : Bool
  /-- STATUS.WERR (R28). -/
  werr : Bool
  /-- STATUS.RESULT (R29). -/
  result : BitVec 3
  /-- STATUS.DCAUSE (R30). -/
  dcause : BitVec 4
  /-- IN_LEN (R32). -/
  inLen : Half
  /-- OUT_LEN (R33). -/
  outLen : Half
  /-- FUNC (R34). -/
  func : Byte
  /-- DATA_LEN (R35). -/
  dataLen : Half
  /-- RX_CRC (R36). -/
  rxCrc : Half
  /-- CALC_CRC (R37). -/
  calcCrc : Half
  /-- IN, OUT and DATA (R39 to R41). -/
  mem : Memory
  /-- PENDING_OP (R45, R120), `none` while no command runs. -/
  pendingOp : Option Byte
  /-- BUF_BYTES (R5), which no step changes (log 3). -/
  params : Params
  /-- How many resets there have been: index of the free values of unwritten bytes (R242; log 4). -/
  epoch : Nat
  /-- How many unspecified reads there have been: index of their free values (R76; log 5). -/
  freeReads : Nat
  /-- Whose turns come next (R20; log 1). -/
  schedule : List Turn
  /-- The HOST agent (R20, R100). -/
  host : HostAgent
deriving DecidableEq, Repr

/-- The HOST agent with a program to run. -/
def HostAgent.start (program : List HostStmt) : HostAgent :=
  { program := program, vars := [], status := .running, log := [] }

/-- The machine right after reset with the given BUF_BYTES (R241): every register field 0, no command, no buffer byte
written. The model's own fields: log 19. -/
def State.resetWith (p : Params) : State :=
  { ie := false, cmdOp := 0, busy := false, done := false, werr := false, result := 0, dcause := 0,
    inLen := 0, outLen := 0, func := 0, dataLen := 0, rxCrc := 0, calcCrc := 0, mem := [], pendingOp := none,
    params := p, epoch := 0, freeReads := 0, schedule := [], host := .start [] }

/-- The machine right after reset (R241), at the BUF_BYTES of the spec's test vectors (log 3). -/
def State.reset : State := State.resetWith Params.testVectors

end Sys2Proof.Machine
end

