-- ==== Sys2Proof/Machine/Ops.lean ====
section
/-! DEFINITION. The named operations over the buffers and the control state: buffer bytes, issue, completion, refused
writes, reset, and the write sets (spec/20_memory.md, 40_command.md, 70_reset_and_hazards.md). This hardware takes no
exceptions and returns from none (spec/60_exceptions.md R217, R221); what every command ends with instead is
`State.complete`. -/

namespace Sys2Proof.Machine

/-! Lists of cells with strictly rising keys. -/

/-- The value at a key, if it is listed. -/
def lookupCell {α : Type} : List (Nat × α) → Nat → Option α
  | [], _ => none
  | (k, v) :: m, x => if k = x then some v else lookupCell m x

/-- The cells with one key's value set, in the same order. -/
def storeCell {α : Type} : List (Nat × α) → Nat → α → List (Nat × α)
  | [], x, w => [(x, w)]
  | (k, v) :: m, x, w =>
    if x < k then (x, w) :: (k, v) :: m
    else if x = k then (x, w) :: m
    else (k, v) :: storeCell m x w

/-- Consecutive keys set from a base on, in index order. -/
def storeCells {α : Type} (m : List (Nat × α)) (base : Nat) : List α → List (Nat × α)
  | [] => m
  | w :: ws => storeCells (storeCell m base w) (base + 1) ws

/-! Buffers. -/

/-- The byte at a window offset: the byte last written since reset, or the unspecified but fixed one (R71). -/
def State.byteAt (s : State) (a : Nat) : Byte :=
  (lookupCell s.mem a).getD (Config.unwrittenByte s.epoch a)

/-- The `n` bytes from a window offset on. -/
def State.bytesFrom (s : State) (base n : Nat) : List Byte :=
  (List.range n).map (fun k => s.byteAt (base + k))

/-- The state with consecutive buffer bytes written. -/
def State.setBytes (s : State) (base : Nat) (bs : List Byte) : State :=
  { s with mem := storeCells s.mem base bs }

/-- The window offset of a buffer's byte 0 (R61). -/
def windowBase : Window → Nat
  | .input => Config.inBase
  | .output => Config.outBase
  | .data => Config.dataBase

/-- A buffer's capacity in bytes (R5, R61). -/
def windowCapacity (p : Params) : Window → Nat
  | .input => p.bufBytes
  | .output => p.bufBytes
  | .data => p.maxData.val

/-- The window offset of a buffer's byte `k` (R61). -/
def windowAddr (w : Window) (k : Nat) : Nat := windowBase w + k

/-- A buffer byte is mapped at this window offset (R61, R65). -/
def bufferMapped (p : Params) (a : Nat) : Prop :=
  ∃ w k, k < windowCapacity p w ∧ a = windowAddr w k

/-! The command protocol. -/

/-- `issue(op)` (R120). -/
def State.issue (op : Byte) (s : State) : State :=
  { s with cmdOp := op, pendingOp := some op, busy := true, done := false }

/-- The code of a result in STATUS.RESULT (R29). -/
def ResultCode.bits : ResultCode → BitVec 3
  | .ok => 0
  | .frameTooShort => 1
  | .delimiterError => 2
  | .checksumMismatch => 3
  | .illegalCommand => 7

/-- `finish(code)` and the completion's own writes, after the staged ones (R122). The hidden state does not survive
it (R45). -/
def State.complete (code : ResultCode) (cause : BitVec 4) (s : State) : State :=
  { s with result := ResultCode.bits code, dcause := cause, busy := false, done := true, pendingOp := none }

/-- A refused host write: WERR is set and nothing else changes (R28, R67, R216). -/
def State.refuseWrite (s : State) : State := { s with werr := true }

/-- RESET (R240 to R242): every register field at its reset value, the running command discarded, every buffer byte
some unspecified value. The HOST agent, the schedule and the parameters are not the block's and stay (log 15). -/
def State.resetBlock (s : State) : State :=
  { s with ie := false, cmdOp := 0, busy := false, done := false, werr := false, result := 0, dcause := 0,
           inLen := 0, outLen := 0, func := 0, dataLen := 0, rxCrc := 0, calcCrc := 0, mem := [],
           pendingOp := none, epoch := s.epoch + 1 }

/-! Write sets (R125). -/

/-- The register is in W of the command (R125). -/
def writesReg : Instr → Reg → Bool
  | .nop, _ => false
  | .decode, r => r = .func ∨ r = .dataLen ∨ r = .rxCrc ∨ r = .calcCrc
  | .encode, r => r = .outLen ∨ r = .calcCrc
  | .crc, r => r = .calcCrc
  | .illegal04 _, _ => false
  | .illegal08 _, _ => false
  | .illegal10 _, _ => false
  | .illegal20 _, _ => false
  | .illegal40 _, _ => false
  | .illegal80 _, _ => false

/-- The window is in W of the command (R125). -/
def writesWindow : Instr → Window → Bool
  | .nop, _ => false
  | .decode, w => w = .data
  | .encode, w => w = .output
  | .crc, _ => false
  | .illegal04 _, _ => false
  | .illegal08 _, _ => false
  | .illegal10 _, _ => false
  | .illegal20 _, _ => false
  | .illegal40 _, _ => false
  | .illegal80 _, _ => false

/-- The running command: that of PENDING_OP while STATUS.BUSY = 1 (R45, R121). -/
def State.running (s : State) : Option Instr :=
  if s.busy then s.pendingOp.map decodeOp else none

/-- A host read of the register is unspecified now (R76). -/
def State.regUnstable (s : State) (r : Reg) : Bool := s.running.any (fun i => writesReg i r)

/-- A host read of the window is unspecified now (R76). -/
def State.windowUnstable (s : State) (w : Window) : Bool := s.running.any (fun i => writesWindow i w)

end Sys2Proof.Machine
end

