-- ==== Sys2Proof/Machine/Operands.lean ====
section
/-! DEFINITION. The commands' operands: the wire frame in IN and its field positions (spec/30_encoding.md R94 to R97),
the logical frame in FUNC, DATA_LEN and DATA (spec/10_state.md R42), and the wire frame of a logical one (R191, R192). -/

namespace Sys2Proof.Machine

/-- The logical frame: a function code and a payload (R42). -/
structure Frame where
  function : Byte
  data : List Byte
deriving DecidableEq, Repr

/-- The frame that FUNC, DATA_LEN and DATA hold (R42). -/
def State.frame (s : State) : Frame :=
  { function := s.func, data := s.bytesFrom Config.dataBase s.dataLen.toNat }

/-- The bytes the checksum covers: the function code and the payload (R97). -/
def Frame.covered (f : Frame) : List Byte := f.function :: f.data

/-- The wire frame of a logical frame (R94, R191, R192). -/
def Frame.wire (f : Frame) : List Byte :=
  [Config.startByte, Config.startByte] ++ f.covered
    ++ [crcLo (crc16 f.covered), crcHi (crc16 f.covered)] ++ [Config.endByte, Config.endByte]

/-- L, the length of the wire frame in IN (R32). -/
def State.len (s : State) : Nat := s.inLen.toNat

/-- IN[k] (R11, R39). -/
def State.inByte (s : State) (k : Nat) : Byte := s.byteAt (Config.inBase + k)

/-- OUT[k] (R40). -/
def State.outByte (s : State) (k : Nat) : Byte := s.byteAt (Config.outBase + k)

/-- DATA[k] (R41). -/
def State.dataByte (s : State) (k : Nat) : Byte := s.byteAt (Config.dataBase + k)

/-- The `n` bytes IN[lo], IN[lo+1], ... -/
def State.inBytes (s : State) (lo n : Nat) : List Byte := s.bytesFrom (Config.inBase + lo) n

/-- The checksum on the wire, from IN[L-4] and IN[L-3] (R95, R164). -/
def State.wireChecksum (s : State) : Half := crcOfBytes (s.inByte (s.len - 4)) (s.inByte (s.len - 3))

/-- The function and data fields, IN[2..L-5], of length L - 6 (R95, R97, R165). -/
def State.wireCovered (s : State) : List Byte := s.inBytes 2 (s.len - 6)

/-- The data field, IN[3..L-5], of length L - 7 (R95, R167). -/
def State.wirePayload (s : State) : List Byte := s.inBytes 3 (s.len - 7)

end Sys2Proof.Machine
end

