-- ==== Sys2Proof/Machine/Flags.lean ====
section
/-! DEFINITION. Every flag the block computes: the delimiter sub-causes (spec/10_state.md R30; 42_decode.md R162), the
STATUS word (spec/20_memory.md R66) and the interrupt output (spec/10_state.md R44). -/

namespace Sys2Proof.Machine

/-- START_MASK or END_MASK: the byte lacks a bit of the sentinel (R30, R162). -/
def maskFails (b sentinel : Byte) : Bool := b &&& sentinel != sentinel

/-- A delimiter condition at its place in DCAUSE (R30). -/
def causeBit (b : Bool) (place : Nat) : BitVec 4 := (BitVec.ofBool b).setWidth 4 <<< place

/-- DCAUSE of the first two and last two bytes of a frame: bit 0 START_MASK, bit 1 START_EQ, bit 2 END_MASK,
bit 3 END_EQ; all four are evaluated (R30, R162). -/
def delimiterCause (start0 start1 end0 end1 : Byte) : BitVec 4 :=
  causeBit (maskFails start0 Config.startByte) 0 ||| causeBit (start1 != start0) 1
    ||| causeBit (maskFails end0 Config.endByte) 2 ||| causeBit (end1 != end0) 3

/-- DCAUSE of the frame in IN (R30): its bytes IN[0], IN[1], IN[L-2], IN[L-1]. -/
def State.wireCause (s : State) : BitVec 4 :=
  delimiterCause (s.inByte 0) (s.inByte 1) (s.inByte (s.len - 2)) (s.inByte (s.len - 1))

/-- A one-bit field at its place in a register. -/
def flagBit (b : Bool) (place : Nat) : Word := (BitVec.ofBool b).setWidth 32 <<< place

/-- The STATUS register as a whole (R26 to R31, R66); reserved bits read as 0 (R68). -/
def State.statusWord (s : State) : Word :=
  (s.dcause.setWidth 32 <<< 8) ||| (s.result.setWidth 32 <<< 4)
    ||| flagBit s.werr 2 ||| flagBit s.done 1 ||| flagBit s.busy 0

/-- IRQ, the level output (R44). -/
def State.irq (s : State) : Bool := s.done && s.ie

end Sys2Proof.Machine
end

