-- ==== Sys2Proof/Machine/CrcCommand.lean ====
section
/-! DEFINITION. The CRC command (spec/41_crc.md R143). -/

namespace Sys2Proof.Machine

/-- CRC (R143): CALC_CRC is the checksum of IN[0..IN_LEN-1]. -/
def execCrc (s : State) : Host.Outcome State Fault Refusal :=
  .next ({ s with calcCrc := crc16 (s.inBytes 0 s.len) }.complete .ok 0)

end Sys2Proof.Machine
end

