-- ==== Sys2Proof/Machine/DecodeCommand.lean ====
section
/-! DEFINITION. The DECODE command (spec/42_decode.md R160 to R170). -/

namespace Sys2Proof.Machine

/-- Steps 3 and 4: the two checksums are staged into RX_CRC and CALC_CRC (R164, R165). -/
def State.stageChecksums (s : State) : State :=
  { s with rxCrc := s.wireChecksum, calcCrc := crc16 s.wireCovered }

/-- Step 6: the frame in IN is demultiplexed into FUNC, DATA_LEN and DATA (R167). -/
def State.stageFrame (s : State) : State :=
  { s.setBytes Config.dataBase s.wirePayload with func := s.inByte 2, dataLen := s.inLen - 7 }

/-- DECODE (R160): the first failing step in the order length, delimiters, checksum decides the result (R168). -/
def execDecode (s : State) : Host.Outcome State Fault Refusal :=
  if s.len < Config.minFrame then .next (s.complete .frameTooShort 0)
  else if s.wireCause ≠ 0 then .next (s.complete .delimiterError s.wireCause)
  else if s.wireChecksum ≠ crc16 s.wireCovered then .next (s.stageChecksums.complete .checksumMismatch 0)
  else .next (s.stageChecksums.stageFrame.complete .ok 0)

end Sys2Proof.Machine
end

