-- ==== Sys2Proof/Machine/EncodeCommand.lean ====
section
/-! DEFINITION. The ENCODE command (spec/43_encode.md R190 to R196). -/

namespace Sys2Proof.Machine

/-- Steps 1 to 5: the wire frame of the logical frame goes to OUT, its length to OUT_LEN, its checksum to CALC_CRC
(R191, R192, R196). -/
def State.stageWire (s : State) : State :=
  { s.setBytes Config.outBase s.frame.wire with outLen := s.dataLen + 7, calcCrc := crc16 s.frame.covered }

/-- ENCODE (R190): it cannot fail (R194). -/
def execEncode (s : State) : Host.Outcome State Fault Refusal := .next (s.stageWire.complete .ok 0)

end Sys2Proof.Machine
end

