-- ==== Sys2Proof/Machine/Protocol.lean ====
section
/-! DEFINITION. NOP and the illegal commands (spec/40_command.md R126, R127). -/

namespace Sys2Proof.Machine

/-- NOP (R126). -/
def execNop (s : State) : Host.Outcome State Fault Refusal := .next (s.complete .ok 0)

/-- ILLEGAL (R127): the result ILLEGAL_COMMAND and no other effect; CMD.OP keeps the opcode since its issue. -/
def finishIllegal (s : State) : State := s.complete .illegalCommand 0

/-- OP 0x04 to 0x07 (R127). -/
def execIllegal04 (s : State) : Host.Outcome State Fault Refusal := .next (finishIllegal s)

/-- OP 0x08 to 0x0F (R127). -/
def execIllegal08 (s : State) : Host.Outcome State Fault Refusal := .next (finishIllegal s)

/-- OP 0x10 to 0x1F (R127). -/
def execIllegal10 (s : State) : Host.Outcome State Fault Refusal := .next (finishIllegal s)

/-- OP 0x20 to 0x3F (R127). -/
def execIllegal20 (s : State) : Host.Outcome State Fault Refusal := .next (finishIllegal s)

/-- OP 0x40 to 0x7F (R127). -/
def execIllegal40 (s : State) : Host.Outcome State Fault Refusal := .next (finishIllegal s)

/-- OP 0x80 to 0xFF (R127). -/
def execIllegal80 (s : State) : Host.Outcome State Fault Refusal := .next (finishIllegal s)

end Sys2Proof.Machine
end

