-- ==== Sys2Proof/Machine/Dispatch.lean ====
section
/-! DEFINITION. The meaning of each command: what its completion step does (spec/40_command.md R122). -/

namespace Sys2Proof.Machine

def exec (i : Instr) (s : State) : Host.Outcome State Fault Refusal :=
  match i with
  | .nop => Sys2Proof.Machine.execNop s
  | .decode => Sys2Proof.Machine.execDecode s
  | .encode => Sys2Proof.Machine.execEncode s
  | .crc => Sys2Proof.Machine.execCrc s
  -- The opcode of an illegal command takes no part in its effect: CMD.OP holds it since the issue (R127).
  | .illegal04 _ => Sys2Proof.Machine.execIllegal04 s
  | .illegal08 _ => Sys2Proof.Machine.execIllegal08 s
  | .illegal10 _ => Sys2Proof.Machine.execIllegal10 s
  | .illegal20 _ => Sys2Proof.Machine.execIllegal20 s
  | .illegal40 _ => Sys2Proof.Machine.execIllegal40 s
  | .illegal80 _ => Sys2Proof.Machine.execIllegal80 s

end Sys2Proof.Machine
end

