-- ==== Sys2Proof/Machine/HostBus.lean ====
section
/-! DEFINITION. The host bus: the address map and the access primitives MemRead and MemWrite (spec/20_memory.md R60 to
R70). -/

namespace Sys2Proof.Machine

/-- A register's offset (R61; 10_state.md §5). -/
def regOffset : Reg → Nat
  | .id => 0x000
  | .ctrl => 0x004
  | .cmd => 0x008
  | .status => 0x00C
  | .inLen => 0x010
  | .outLen => 0x014
  | .func => 0x018
  | .dataLen => 0x01C
  | .rxCrc => 0x020
  | .calcCrc => 0x024
  | .param => 0x028

/-- The register at an offset, if there is one (R61). -/
def regAt (a : Nat) : Option Reg :=
  [Reg.id, .ctrl, .cmd, .status, .inLen, .outLen, .func, .dataLen, .rxCrc, .calcCrc, .param].find?
    (fun r => regOffset r == a)

/-- What an access without a bus error goes to: a register, or a window's bytes from an index on. -/
inductive Target where
  | reg (r : Reg)
  | window (w : Window) (k : Nat)
deriving DecidableEq, Repr

/-- All `n` bytes from offset `a` on lie inside the window's buffer (R65). -/
def inWindow (p : Params) (w : Window) (a n : Nat) : Bool :=
  windowBase w ≤ a ∧ a + n ≤ windowBase w + windowCapacity p w

/-- The window that holds all `n` bytes from offset `a` on, with the index of the first (R61, R65). -/
def windowAt (p : Params) (a n : Nat) : Option Target :=
  if inWindow p .input a n then some (.window .input (a - Config.inBase))
  else if inWindow p .output a n then some (.window .output (a - Config.outBase))
  else if inWindow p .data a n then some (.window .data (a - Config.dataBase))
  else none

/-- The target of an access of `n` bytes at offset `a`; `none` is a bus error (R62): a size other than 1, 2, 4, a
misaligned offset, an unmapped byte, or a register with a size other than 4 (R63). -/
def resolve (p : Params) (a n : Nat) : Option Target :=
  if ¬(n = 1 ∨ n = 2 ∨ n = 4) ∨ a % n ≠ 0 then none
  else if Config.lastOffset < a + n - 1 then none
  else if a < Config.inBase then if n = 4 then (regAt a).map .reg else none
  else windowAt p a n

/-- The value of a register to a host read while it is not in a running write set (R66): fields zero-extended,
reserved bits 0 (R68). -/
def State.regValue (s : State) : Reg → Word
  | .id => Config.idValue
  | .ctrl => flagBit s.ie 0
  | .cmd => s.cmdOp.setWidth 32
  | .status => s.statusWord
  | .inLen => s.inLen.setWidth 32
  | .outLen => s.outLen.setWidth 32
  | .func => s.func.setWidth 32
  | .dataLen => s.dataLen.setWidth 32
  | .rxCrc => s.rxCrc.setWidth 32
  | .calcCrc => s.calcCrc.setWidth 32
  | .param => BitVec.ofNat 32 s.params.bufBytes

/-- A little-endian value from bytes, byte `i` in bits [8i+7:8i] (R64). -/
def littleEndian : List Byte → Word
  | [] => 0
  | b :: bs => b.setWidth 32 ||| (littleEndian bs <<< 8)

/-- The `n` low bytes of a value, lowest first (R64). -/
def valueBytes : Nat → Word → List Byte
  | 0, _ => []
  | n + 1, v => v.setWidth 8 :: valueBytes n (v >>> 8)

/-- An unspecified value of `n` bytes (R76), and the state that makes the next one differ. -/
def freeRead (n : Nat) (s : State) : Response × State :=
  (.data (littleEndian (valueBytes n (Config.busyRead s.freeReads))), { s with freeReads := s.freeReads + 1 })

/-- `MemRead(addr, n)` (R66): the response, and the state, of which only the free-value index can change (R69). -/
def memRead (a : Offset) (n : Nat) (s : State) : Response × State :=
  match resolve s.params a.toNat n with
  | none => (.busError, s)
  | some (.reg r) => if s.regUnstable r then freeRead n s else (.data (s.regValue r), s)
  | some (.window w k) =>
    if s.windowUnstable w then freeRead n s
    else (.data (littleEndian (s.bytesFrom (windowAddr w k) n)), s)

/-- A STATUS write (R27, R28, R31): DONE and WERR are cleared where a 1 is written, every other bit is ignored. -/
def State.writeStatus (v : Word) (s : State) : State :=
  { s with done := s.done && !v.getLsbD 1, werr := s.werr && !v.getLsbD 2 }

/-- The bits [15:0] of a length write (R32, R35). -/
def lengthField (v : Word) : Half := v.setWidth 16

/-- An IN_LEN write while idle: refused above BUF_BYTES (R32). -/
def State.writeInLen (v : Word) (s : State) : State :=
  if s.params.bufBytes < (lengthField v).toNat then s.refuseWrite else { s with inLen := lengthField v }

/-- A DATA_LEN write while idle: refused above MAX_DATA (R35). -/
def State.writeDataLen (v : Word) (s : State) : State :=
  if s.params.maxData.val < (lengthField v).toNat then s.refuseWrite else { s with dataLen := lengthField v }

/-- A write to a protected location: refused while BUSY = 1 (R67). -/
def State.guarded (s : State) (write : State → State) : State :=
  if s.busy then s.refuseWrite else write s

/-- A 4-byte write to a register (R67). -/
def State.writeReg (r : Reg) (v : Word) (s : State) : State :=
  match r with
  | .id => s
  | .outLen => s
  | .rxCrc => s
  | .calcCrc => s
  | .param => s
  | .ctrl => { s with ie := v.getLsbD 0 }
  | .status => s.writeStatus v
  | .cmd => s.guarded (State.issue (opField v))
  | .inLen => s.guarded (State.writeInLen v)
  | .func => s.guarded (fun t => { t with func := v.setWidth 8 })
  | .dataLen => s.guarded (State.writeDataLen v)

/-- A write of `n` bytes to a window from index `k` on (R67): OUT ignores it, IN and DATA are protected. -/
def State.writeWindow (w : Window) (k n : Nat) (v : Word) (s : State) : State :=
  match w with
  | .output => s
  | .input => s.guarded (fun t => t.setBytes (windowAddr .input k) (valueBytes n v))
  | .data => s.guarded (fun t => t.setBytes (windowAddr .data k) (valueBytes n v))

/-- `MemWrite(addr, n, v)` (R67). -/
def memWrite (a : Offset) (n : Nat) (v : Word) (s : State) : Response × State :=
  match resolve s.params a.toNat n with
  | none => (.busError, s)
  | some (.reg r) => (.accepted, s.writeReg r v)
  | some (.window w k) => (.accepted, s.writeWindow w k n v)

end Sys2Proof.Machine
end

