-- ==== Sys2Proof/Machine/HostProgram.lean ====
section
/-! DEFINITION. The HOST agent: the meaning of the statements of a host program, the pseudo-statements and the written
form of bus transactions (spec/30_encoding.md R100 to R102). -/

namespace Sys2Proof.Machine

/-! Symbolic offsets and pseudo-statements. -/

/-- The symbolic offset of a register (R100). -/
def regSymbol (r : Reg) : Offset := BitVec.ofNat 16 (regOffset r)

/-- `IN+k`, `OUT+k`, `DATA+k` (R100). -/
def windowSymbol (w : Window) (k : Nat) : Offset := BitVec.ofNat 16 (windowAddr w k)

/-- Byte writes to consecutive bytes of a window, one statement each. -/
def writeBytesStmts (w : Window) : Nat → List Byte → List HostStmt
  | _, [] => []
  | k, b :: bs => .wr 1 (windowSymbol w k) (.num (b.setWidth 32)) :: writeBytesStmts w (k + 1) bs

/-- `LOADIN b0 .. bn-1` (R101), with literal bytes: DESIGN CHOICE (log 23). -/
def loadIn (bs : List Byte) : List HostStmt :=
  writeBytesStmts .input 0 bs ++ [.wr 4 (regSymbol .inLen) (.num (BitVec.ofNat 32 bs.length))]

/-- `LOADDATA b0 .. bn-1` (R101), with literal bytes: DESIGN CHOICE (log 23). -/
def loadData (bs : List Byte) : List HostStmt :=
  writeBytesStmts .data 0 bs ++ [.wr 4 (regSymbol .dataLen) (.num (BitVec.ofNat 32 bs.length))]

/-- `WAIT` (R101): until BUSY = 0. -/
def waitIdle : List HostStmt := [.poll (regSymbol .status) (.num 1) (.num 0)]

/-- `RUN op` (R101), with a literal opcode of one byte: DESIGN CHOICE (log 23). -/
def runCommand (op : Byte) : List HostStmt := .wr 4 (regSymbol .cmd) (.num (op.setWidth 32)) :: waitIdle

/-- `ACK` (R101): clears DONE and WERR. -/
def acknowledge : List HostStmt := [.wr 4 (regSymbol .status) (.num 6)]

/-! The written form of transactions (R102). -/

/-- A hexadecimal digit, in capitals. -/
def hexDigit (d : Nat) : Char := "0123456789ABCDEF".toList.getD d '?'

/-- The `k` lowest hexadecimal digits of a number, highest first. -/
def hexDigits : Nat → Nat → List Char
  | 0, _ => []
  | k + 1, v => hexDigits k (v / 16) ++ [hexDigit (v % 16)]

/-- `W<n> <offset> <value>` or `R<n> <offset>` (R102), as characters. -/
def Transaction.render : Transaction → List Char
  | .write n a v => 'W' :: Nat.toDigits 10 n ++ ' ' :: hexDigits 4 a.toNat ++ ' ' :: hexDigits (2 * n) v.toNat
  | .read n a => 'R' :: Nat.toDigits 10 n ++ ' ' :: hexDigits 4 a.toNat

/-- The encoding of what a host program has done so far (R102): its bus transactions in order, in their written form. -/
def HostAgent.encoding (h : HostAgent) : List (List Char) := h.log.map (fun x => Transaction.render x.1)

/-! Statements. -/

/-- A number, or the value of a host variable read earlier (R100). -/
def HostAgent.value (h : HostAgent) : HostValue → Option Word
  | .num v => some v
  | .var x => lookupCell h.vars x

/-- The program ends at the statement at its head. -/
def State.endHost (why : HostStatus) (s : State) : State := { s with host := { s.host with status := why } }

/-- The host goes on with the given statements. -/
def State.continueHost (rest : List HostStmt) (s : State) : State := { s with host := { s.host with program := rest } }

/-- A transaction and its response join the log. -/
def State.logAccess (x : Transaction) (r : Response) (s : State) : State :=
  { s with host := { s.host with log := s.host.log ++ [(x, r)] } }

/-- A host variable takes a value. -/
def State.setVar (x : Nat) (v : Word) (s : State) : State :=
  { s with host := { s.host with vars := storeCell s.host.vars x v } }

/-- `WR.n a, v` (R100). -/
def hostWrite (n : Nat) (a : Offset) (v : HostValue) (rest : List HostStmt) (s : State) : State :=
  match s.host.value v with
  | none => s.endHost .unboundVariable
  | some w =>
    match memWrite a n w s with
    | (.busError, t) => (t.logAccess (.write n a w) .busError).endHost .busError
    | (r, t) => (t.logAccess (.write n a w) r).continueHost rest

/-- `RD.n a -> $x` (R100). -/
def hostRead (n : Nat) (a : Offset) (x : Nat) (rest : List HostStmt) (s : State) : State :=
  match memRead a n s with
  | (.data v, t) => ((t.logAccess (.read n a) (.data v)).setVar x v).continueHost rest
  | (r, t) => (t.logAccess (.read n a) r).endHost .busError

/-- One read of `POLL.W a, m, v`; the statement stays until `(read & m) == v` (R100). The mask may be a number or a
variable, as `v` may: DESIGN CHOICE (log 24); a variable that nothing has read ends the program (log 9). -/
def hostPoll (a : Offset) (m v : HostValue) (rest : List HostStmt) (s : State) : State :=
  match s.host.value m, s.host.value v with
  | some mask, some want =>
    match memRead a 4 s with
    | (.data got, t) =>
      let t := t.logAccess (.read 4 a) (.data got)
      if got &&& mask = want then t.continueHost rest else t
    | (r, t) => (t.logAccess (.read 4 a) r).endHost .busError
  | _, _ => s.endHost .unboundVariable

/-- `EXPECT $x, v` (R100): no bus transaction (log 8). -/
def hostExpect (x : Nat) (v : HostValue) (rest : List HostStmt) (s : State) : State :=
  match s.host.value (.var x), s.host.value v with
  | some got, some want => if got = want then s.continueHost rest else s.endHost .expectFailed
  | _, _ => s.endHost .unboundVariable

/-- One turn of a statement, with the statements after it. -/
def hostStatement (stmt : HostStmt) (rest : List HostStmt) (s : State) : State :=
  match stmt with
  | .wr n a v => hostWrite n a v rest s
  | .rd n a x => hostRead n a x rest s
  | .poll a m v => hostPoll a m v rest s
  | .expect x v => hostExpect x v rest s

/-- The HOST's turn (R20): one statement of a program that can go on; otherwise nothing (log 12). -/
def hostTurn (s : State) : State :=
  match s.host.status, s.host.program with
  | .running, stmt :: rest => hostStatement stmt rest s
  | _, _ => s

end Sys2Proof.Machine
end

