-- ==== Sys2Proof/Machine/Agents.lean ====
section
/-! DEFINITION. The turns of the agents and whose turn is next (spec/10_state.md R20; 40_command.md R121). -/

namespace Sys2Proof.Machine

/-- The ENGINE's turn (R121, R122): enabled while BUSY = 1, it runs the command of PENDING_OP to its completion;
otherwise nothing (log 12). -/
def engineTurn (s : State) : Host.Outcome State Fault Refusal :=
  if s.busy then
    match s.pendingOp with
    | some op => exec (decodeOp op) s
    | none => .fault .busyWithoutCommand
  else .next s

/-- One turn of an agent. -/
def takeTurn (t : Turn) (s : State) : Host.Outcome State Fault Refusal :=
  match t with
  | .host => .next (hostTurn s)
  | .engine => engineTurn s
  | .reset => .next s.resetBlock

/-- Whose turn is next: the schedule says; when it is used up, the engine while it is enabled, so that every issued
command completes (R124), and the host otherwise (log 1). -/
def State.nextTurn (s : State) : Turn :=
  match s.schedule with
  | t :: _ => t
  | [] => if s.busy then .engine else .host

/-- The state with the next turn taken off the schedule. -/
def State.dropTurn (s : State) : State := { s with schedule := s.schedule.tail }

end Sys2Proof.Machine
end

