-- ==== Sys2Proof/Machine/Step.lean ====
section
/-! DEFINITION. One step of the machine: one turn of one agent (spec/10_state.md R20). -/

namespace Sys2Proof.Machine

/-- One step: the agent whose turn it is moves. -/
def step (s : State) : Host.Outcome State Fault Refusal := takeTurn s.nextTurn s.dropTurn

/-- The schedule under which the engine moves next and everything after is as before: an empty schedule already lets
it, while BUSY = 1. -/
def engineFirst : List Turn → List Turn
  | [] => []
  | t :: ts => .engine :: t :: ts

/-- The command of the word `w` issued (R120), as a host write of it to CMD leaves the state, and the engine's turn
next: the next step runs it (log 2). -/
def State.withFetchWord (s : State) (nbits w : Nat) : State :=
  { s.issue (opField (tableWord nbits w)) with schedule := engineFirst s.schedule }

end Sys2Proof.Machine
end

