-- ==== Sys2Proof/Safety.lean ====
section
/-! DEFINITION. What counts as a safe run: the invariant of the states a run reaches, and which part of the state a
command or the host may touch. -/

namespace Sys2Proof.Machine

/-- The facts every reachable state has. -/
structure State.Inv (s : State) : Prop where
  /-- The memory is in its canonical form. -/
  mem_canonical : Memory.wf s.mem
  /-- Only buffer bytes that exist are written (R61, R65). -/
  mem_mapped : ∀ c ∈ s.mem, bufferMapped s.params c.1
  /-- IN_LEN holds a legal value (R32). -/
  in_len_legal : s.inLen.toNat ≤ s.params.bufBytes
  /-- DATA_LEN holds a legal value (R35). -/
  data_len_legal : s.dataLen.toNat ≤ s.params.maxData.val
  /-- OUT_LEN is 0 since reset, or the length of a frame that fits OUT (R33, R194). -/
  out_len_legal : s.outLen = 0 ∨ (7 ≤ s.outLen.toNat ∧ s.outLen.toNat ≤ s.params.bufBytes)
  /-- PENDING_OP is CMD.OP while a command runs, and there is none otherwise (R45, R120). -/
  pending_matches : s.pendingOp = if s.busy then some s.cmdOp else none
  /-- DONE = 0 throughout BUSY (R27). -/
  not_done_while_busy : s.busy = true → s.done = false
  /-- RESULT never holds a reserved code (R29). -/
  result_assigned : s.result ≠ 4 ∧ s.result ≠ 5 ∧ s.result ≠ 6
  /-- DCAUSE is non-zero exactly when RESULT is DELIMITER_ERROR (R30). -/
  cause_iff_delimiter : s.dcause ≠ 0 ↔ s.result = ResultCode.bits .delimiterError

/-- A safe step: it answers a next state. The block has no fatal outcome (R210). -/
def State.stepsSafely (s : State) : Prop := ∃ t, step s = .next t

/-- What every completion does from `s` to `t` beside its staged writes (R122): the STATUS fields take the given
RESULT and DCAUSE, BUSY falls, DONE rises, no command is left; WERR, CTRL, CMD and IN_LEN, which no completion touches,
and the model's own fields are as before. -/
structure Completes (s t : State) (code : BitVec 3) (cause : BitVec 4) : Prop where
  result : t.result = code
  dcause : t.dcause = cause
  busy : t.busy = false
  done : t.done = true
  pending : t.pendingOp = none
  werr : t.werr = s.werr
  ctrl : t.ie = s.ie
  cmd : t.cmdOp = s.cmdOp
  in_len : t.inLen = s.inLen
  params : t.params = s.params
  epoch : t.epoch = s.epoch
  free_reads : t.freeReads = s.freeReads
  schedule : t.schedule = s.schedule
  host : t.host = s.host

/-- Every byte of every buffer reads as before. -/
def SameBytes (s t : State) : Prop := ∀ a, t.byteAt a = s.byteAt a

/-- The registers of the logical frame and the results of ENCODE are as before: FUNC, DATA_LEN, OUT_LEN. -/
def SameLengthsAndFunc (s t : State) : Prop := t.func = s.func ∧ t.dataLen = s.dataLen ∧ t.outLen = s.outLen

/-- The checksum registers are as before. -/
def SameChecksums (s t : State) : Prop := t.rxCrc = s.rxCrc ∧ t.calcCrc = s.calcCrc

/-- The delimiters of the frame in IN are accepted, as R163 lists them: equal start bytes out of four values, equal end
bytes out of four values. -/
abbrev State.delimitersAccepted (s : State) : Prop :=
  s.inByte 0 ∈ [(0x7B : Byte), 0x7F, 0xFB, 0xFF] ∧ s.inByte 1 = s.inByte 0 ∧
  s.inByte (s.len - 2) ∈ [(0x7D : Byte), 0x7F, 0xFD, 0xFF] ∧ s.inByte (s.len - 1) = s.inByte (s.len - 2)

/-- The checksum that the frame in IN carries: IN[L-4] | (IN[L-3] << 8) (R164). -/
def State.carriedChecksum (s : State) : Half :=
  (s.inByte (s.len - 4)).setWidth 16 ||| ((s.inByte (s.len - 3)).setWidth 16 <<< 8)

/-- The checksum of the function and data fields of the frame in IN, IN[2..L-5] (R165). -/
def State.computedChecksum (s : State) : Half := crc16 ((List.range (s.len - 6)).map fun k => s.inByte (2 + k))

/-- A host access that R62 does not answer with a bus error: 1, 2 or 4 bytes, aligned, and either a whole register
(R63) or bytes that all lie inside one buffer (R65). -/
abbrev legalAccess (p : Params) (a n : Nat) : Prop :=
  (n = 1 ∨ n = 2 ∨ n = 4) ∧ a % n = 0 ∧
  ((n = 4 ∧ a ≤ 0x28) ∨
   (0x1000 ≤ a ∧ a + n ≤ 0x1000 + p.bufBytes) ∨
   (0x2000 ≤ a ∧ a + n ≤ 0x2000 + p.bufBytes) ∨
   (0x3000 ≤ a ∧ a + n ≤ 0x3000 + p.maxData.val))

end Sys2Proof.Machine
end

