-- ==== Sys2Proof/Certificates/Slice0/Obligations.lean ====
section
/-! DEFINITION. The statements for the provers: what the rules of spec/ say the block does. -/

open Sys2Proof Sys2Proof.Machine

/-! ## Encodings -/

/-- Round trip of the command word: decoding the bytes of a well-formed command's word, whatever follows them, gives the
command and what follows (R90, R91, R92). -/
def Obligations.DecodeOfEncodeIsTheCommand : Prop :=
  ∀ (i : Instr) (rest : List Byte), i.wellFormed = true → decode (encode i ++ rest) = .ok (i, rest)

/-- Every 32-bit word selects exactly one row of the table: the row of the command it decodes to, which carries the word's
OP, is there and is selected, and no other row is (R90). -/
def Obligations.EveryWordSelectsOneRow : Prop :=
  ∀ w : Word, (decodeWord w).wellFormed = true ∧ (decodeWord w).opcode = opField w ∧
    (∃ r, opcodeTable[(decodeWord w).rowIndex]? = some r ∧ r.selects w = true) ∧
    ∀ (k : Nat) (r : Row), opcodeTable[k]? = some r → (r.selects w = true ↔ k = (decodeWord w).rowIndex)

/-- Bits [31:8] of a command word take no part in decoding, and CMD, once it has accepted the word, reads back OP with
bits [31:8] zero (R25, R90). -/
def Obligations.ReservedCommandBitsAreIgnored : Prop :=
  ∀ (hi : Word) (op : Byte) (s : State), s.busy = false →
    decodeWord (hi <<< 8 ||| op.setWidth 32) = decodeOp op ∧
    (memRead 0x008 4 (memWrite 0x008 4 (hi <<< 8 ||| op.setWidth 32) s).2).1 = .data (op.setWidth 32)

/-- Sample words, written out from the encoding: one per command, both ends of each ILLEGAL row, and the spec's own
words with reserved bits set (R91, R92). -/
def Obligations.SampleWordsDecode : Prop :=
  decodeWord 0x00000000 = .nop ∧ decodeWord 0x00000001 = .decode ∧ decodeWord 0x00000002 = .encode ∧
  decodeWord 0x00000003 = .crc ∧ decodeWord 0x00000004 = .illegal04 0x04 ∧ decodeWord 0x00000007 = .illegal04 0x07 ∧
  decodeWord 0x00000008 = .illegal08 0x08 ∧ decodeWord 0x0000000F = .illegal08 0x0F ∧
  decodeWord 0x00000010 = .illegal10 0x10 ∧ decodeWord 0x0000001F = .illegal10 0x1F ∧
  decodeWord 0x00000020 = .illegal20 0x20 ∧ decodeWord 0x0000003F = .illegal20 0x3F ∧
  decodeWord 0x00000040 = .illegal40 0x40 ∧ decodeWord 0x0000007F = .illegal40 0x7F ∧
  decodeWord 0x00000080 = .illegal80 0x80 ∧ decodeWord 0x000000FF = .illegal80 0xFF ∧
  decodeWord 0x00000301 = .decode ∧ decodeWord 0xFFFFFF02 = .encode ∧ decodeWord 0x00000104 = .illegal04 0x04

/-- The written form of a transaction (R102) tells it: two transactions of legal size, whose write values fit their size,
are written alike only when they are equal. -/
def Obligations.TransactionTextDeterminesTransaction : Prop :=
  ∀ x y : Transaction,
    (∀ z ∈ [x, y], match z with
      | .write n _ v => (n = 1 ∨ n = 2 ∨ n = 4) ∧ v.toNat < 2 ^ (8 * n)
      | .read n _ => n = 1 ∨ n = 2 ∨ n = 4) →
    Transaction.render x = Transaction.render y → x = y

/-! ## The step -/

/-- The engine's step runs the command that the decoder reads from the latched opcode: with a command running and the
engine's turn, `step` is `exec` of that command (R121, R122). The bytes of the command word above OP are free, since they take
no part in decoding. Two things here are the model's: that OP is the first of the word's four bytes (log 18), and that the
turn is taken off a schedule (log 1). -/
def Obligations.EngineStepRunsTheDecodedCommand : Prop :=
  ∀ (s : State) (op b1 b2 b3 : Byte) (i : Instr), s.nextTurn = .engine → s.busy = true → s.pendingOp = some op →
    decode [op, b1, b2, b3] = .ok (i, []) → step s = exec i s.dropTurn

/-! ## The commands -/

/-- NOP completes with OK and no other effect (R126). -/
def Obligations.NopCompletesWithOkOnly : Prop :=
  ∀ s : State, ∃ t, exec .nop s = .next t ∧ Completes s t 0 0 ∧ SameLengthsAndFunc s t ∧ SameChecksums s t ∧ SameBytes s t

/-- Every opcode 0x04 to 0xFF is an ILLEGAL command, and each of the six ILLEGAL commands completes with
ILLEGAL_COMMAND and no other effect: CMD.OP, which `Completes` keeps, still holds the opcode (R92, R127, R214). -/
def Obligations.IllegalCommandsCompleteWithCodeSevenOnly : Prop :=
  (∀ op : Byte, 4 ≤ op.toNat → 4 ≤ (decodeOp op).rowIndex) ∧
  ∀ (op : Byte) (s : State), ∀ i ∈ [Instr.illegal04 op, .illegal08 op, .illegal10 op, .illegal20 op, .illegal40 op,
      .illegal80 op],
    ∃ t, exec i s = .next t ∧ Completes s t 7 0 ∧ SameLengthsAndFunc s t ∧ SameChecksums s t ∧ SameBytes s t

/-- CRC puts the checksum of IN[0..L-1] into CALC_CRC and completes with OK, for every L from 0 on; nothing else
changes (R143). -/
def Obligations.CrcCommandComputesTheChecksumOfIn : Prop :=
  ∀ s : State, ∃ t, exec .crc s = .next t ∧ Completes s t 0 0 ∧
    t.calcCrc = crc16 ((List.range s.inLen.toNat).map fun k => s.inByte k) ∧
    (s.inLen = 0 → t.calcCrc = 0xFFFF) ∧ t.rxCrc = s.rxCrc ∧ SameLengthsAndFunc s t ∧ SameBytes s t

/-- A DECODE with IN_LEN < 7 finishes with FRAME_TOO_SHORT, whatever IN holds; DCAUSE is 0 and nothing is staged
(R161). -/
def Obligations.DecodeRejectsShortFrames : Prop :=
  ∀ s : State, s.inLen.toNat < 7 → ∃ t, exec .decode s = .next t ∧ Completes s t 1 0 ∧
    SameLengthsAndFunc s t ∧ SameChecksums s t ∧ SameBytes s t

/-- A DECODE that passes its length check evaluates the four delimiter conditions and records each in DCAUSE; it ends
with DELIMITER_ERROR exactly when one of them holds, and then changes nothing else (R162). -/
def Obligations.DecodeReportsAllDelimiterConditions : Prop :=
  ∀ s : State, 7 ≤ s.inLen.toNat → ∃ t, exec .decode s = .next t ∧
    (t.dcause.getLsbD 0 = true ↔ s.inByte 0 &&& 0x7B ≠ 0x7B) ∧
    (t.dcause.getLsbD 1 = true ↔ s.inByte 1 ≠ s.inByte 0) ∧
    (t.dcause.getLsbD 2 = true ↔ s.inByte (s.inLen.toNat - 2) &&& 0x7D ≠ 0x7D) ∧
    (t.dcause.getLsbD 3 = true ↔ s.inByte (s.inLen.toNat - 1) ≠ s.inByte (s.inLen.toNat - 2)) ∧
    (t.result = 2 ↔ t.dcause ≠ 0) ∧
    (t.dcause ≠ 0 → Completes s t 2 t.dcause ∧ SameLengthsAndFunc s t ∧ SameChecksums s t ∧ SameBytes s t)

/-- The four accepted start bytes and the four accepted end bytes, and step 2 passes exactly on equal accepted pairs
(R163). -/
def Obligations.AcceptedDelimiterBytes : Prop :=
  (∀ b : Byte, b &&& 0x7B = 0x7B ↔ b ∈ [(0x7B : Byte), 0x7F, 0xFB, 0xFF]) ∧
  (∀ b : Byte, b &&& 0x7D = 0x7D ↔ b ∈ [(0x7D : Byte), 0x7F, 0xFD, 0xFF]) ∧
  ∀ s : State, s.wireCause = 0 ↔ s.delimitersAccepted

/-- A DECODE that reaches the comparison commits both checksums; when they differ it ends with CHECKSUM_MISMATCH and
writes nothing else, and when they are equal it ends with OK and both registers hold the same value (R166). -/
def Obligations.DecodeComparesTheChecksums : Prop :=
  ∀ s : State, 7 ≤ s.inLen.toNat → s.delimitersAccepted → ∃ t, exec .decode s = .next t ∧
    t.rxCrc = s.carriedChecksum ∧ t.calcCrc = s.computedChecksum ∧
    (s.carriedChecksum ≠ s.computedChecksum →
      Completes s t 3 0 ∧ SameLengthsAndFunc s t ∧ SameBytes s t) ∧
    (s.carriedChecksum = s.computedChecksum → Completes s t 0 0 ∧ t.rxCrc = t.calcCrc)

/-- A DECODE of a frame with accepted delimiters and a right checksum ends with OK: FUNC is IN[2], DATA_LEN is L - 7,
DATA[k] is IN[3+k]; DATA bytes at index L-7 and above, and every byte of the other buffers, are unchanged; the payload
fits DATA (R167). -/
def Obligations.DecodeDemultiplexesTheFrame : Prop :=
  ∀ s : State, 7 ≤ s.inLen.toNat → s.delimitersAccepted → s.carriedChecksum = s.computedChecksum →
    ∃ t, exec .decode s = .next t ∧ Completes s t 0 0 ∧
      t.func = s.inByte 2 ∧ t.dataLen.toNat = s.inLen.toNat - 7 ∧
      (∀ k < s.inLen.toNat - 7, t.dataByte k = s.inByte (3 + k)) ∧
      (s.inLen.toNat ≤ s.params.bufBytes → t.dataLen.toNat ≤ s.params.maxData.val) ∧
      t.rxCrc = s.carriedChecksum ∧ t.calcCrc = s.carriedChecksum ∧ t.outLen = s.outLen ∧
      ∀ a, a < 0x3000 ∨ 0x3000 + (s.inLen.toNat - 7) ≤ a → t.byteAt a = s.byteAt a

/-- DECODE reports one result, that of the first failing step in the order length, delimiters, checksum (R168). -/
def Obligations.DecodeReportsTheFirstFailingStep : Prop :=
  ∀ s : State, ∃ t, exec .decode s = .next t ∧
    t.result = if s.inLen.toNat < 7 then 1 else if ¬s.delimitersAccepted then 2
      else if s.carriedChecksum ≠ s.computedChecksum then 3 else 0

/-- A DECODE that ends with any error leaves FUNC, DATA_LEN and every byte of every buffer as they were; one that ends
with FRAME_TOO_SHORT or DELIMITER_ERROR also leaves RX_CRC and CALC_CRC (R169). -/
def Obligations.FailedDecodeKeepsTheFrame : Prop :=
  ∀ s : State, ∃ t, exec .decode s = .next t ∧
    (t.result ≠ 0 → t.func = s.func ∧ t.dataLen = s.dataLen ∧ ∀ a, t.byteAt a = s.byteAt a) ∧
    (t.result = 1 ∨ t.result = 2 → t.rxCrc = s.rxCrc ∧ t.calcCrc = s.calcCrc)

/-- Changing exactly one of the four delimiter bytes of an accepted frame, to any other value, makes DECODE end with
DELIMITER_ERROR (R172). -/
def Obligations.OneChangedDelimiterByteIsADelimiterError : Prop :=
  ∀ (s t : State) (k : Nat) (b : Byte), exec .decode s = .next t → t.result = 0 →
    (k = 0 ∨ k = 1 ∨ k = s.inLen.toNat - 2 ∨ k = s.inLen.toNat - 1) → b ≠ s.inByte k →
    ∃ u, exec .decode (s.setBytes (0x1000 + k) [b]) = .next u ∧ u.result = 2

/-- Changing exactly one byte at index 2 to L-3 of an accepted frame always makes DECODE end with CHECKSUM_MISMATCH: in
the function and data fields the computed checksum changes and the carried one does not, in the checksum field the other
way round (R173). -/
def Obligations.OneChangedInnerByteIsAChecksumMismatch : Prop :=
  ∀ (s t : State) (k : Nat) (b : Byte), exec .decode s = .next t → t.result = 0 →
    2 ≤ k → k ≤ s.inLen.toNat - 3 → b ≠ s.inByte k →
    ∃ u, exec .decode (s.setBytes (0x1000 + k) [b]) = .next u ∧ u.result = 3 ∧
      (k ≤ s.inLen.toNat - 5 → u.calcCrc ≠ t.calcCrc ∧ u.rxCrc = t.rxCrc) ∧
      (s.inLen.toNat - 4 ≤ k → u.calcCrc = t.calcCrc ∧ u.rxCrc ≠ t.rxCrc)

/-- The minimum length boundary: below 7 bytes FRAME_TOO_SHORT; at 7 bytes with accepted delimiters the DECODE ends with
OK, FUNC = IN[2] and DATA_LEN = 0 exactly when IN[3] | IN[4] << 8 is the checksum of IN[2] (R174). -/
def Obligations.MinimumLengthBoundary : Prop :=
  ∀ s : State, ∃ t, exec .decode s = .next t ∧ (s.inLen.toNat < 7 → t.result = 1) ∧
    (s.inLen.toNat = 7 → s.delimitersAccepted →
      ((t.result = 0 ∧ t.func = s.inByte 2 ∧ t.dataLen = 0) ↔
        (s.inByte 3).setWidth 16 ||| ((s.inByte 4).setWidth 16 <<< 8) = crc16 [s.inByte 2]))

/-- ENCODE builds the wire frame: the delimiters, the function byte and the payload in order, then the checksum of
function and payload, low byte first; OUT_LEN and CALC_CRC follow, and nothing else changes, OUT bytes from DATA_LEN + 7
on included (R191, R192, R195, R196). -/
def Obligations.EncodeBuildsTheWireFrame : Prop :=
  ∀ s : State, s.dataLen.toNat ≤ s.params.maxData.val →
    let n := s.dataLen.toNat
    let c := crc16 (s.func :: (List.range n).map fun k => s.dataByte k)
    ∃ t, exec .encode s = .next t ∧ Completes s t 0 0 ∧
      t.outByte 0 = 0x7B ∧ t.outByte 1 = 0x7B ∧ t.outByte 2 = s.func ∧
      (∀ k < n, t.outByte (3 + k) = s.dataByte k) ∧
      t.outByte (n + 3) = c.setWidth 8 ∧ t.outByte (n + 4) = (c >>> 8).setWidth 8 ∧
      t.outByte (n + 5) = 0x7D ∧ t.outByte (n + 6) = 0x7D ∧
      t.outLen.toNat = n + 7 ∧ t.outLen.toNat ≤ s.params.bufBytes ∧ t.calcCrc = c ∧
      t.func = s.func ∧ t.dataLen = s.dataLen ∧ t.rxCrc = s.rxCrc ∧
      ∀ a, a < 0x2000 ∨ 0x2000 + (n + 7) ≤ a → t.byteAt a = s.byteAt a

/-- The round-trip law: after an ENCODE, a DECODE of OUT[0..OUT_LEN-1] copied to IN, with IN_LEN = OUT_LEN, ends with OK
and gives the frame back (R197). The state `u` of the DECODE is any state that holds that copy. -/
def Obligations.DecodeOfEncodeGivesTheFrameBack : Prop :=
  ∀ s t u : State, s.dataLen.toNat ≤ s.params.maxData.val → exec .encode s = .next t →
    u.inLen = t.outLen → (∀ k < t.outLen.toNat, u.inByte k = t.outByte k) →
    ∃ v, exec .decode u = .next v ∧ v.result = 0 ∧ v.func = s.func ∧ v.dataLen = s.dataLen ∧
      ∀ k < s.dataLen.toNat, v.dataByte k = s.dataByte k

/-- The other way round only the delimiters can differ: ENCODE after a successful DECODE reproduces every byte of the
frame in IN between its delimiters, and the delimiters are 0x7B and 0x7D whatever accepted values IN held (R175,
R193). -/
def Obligations.EncodeAfterDecodeNormalisesDelimiters : Prop :=
  ∀ s t : State, s.inLen.toNat ≤ s.params.bufBytes → exec .decode s = .next t → t.result = 0 →
    ∃ u, exec .encode t = .next u ∧ u.outLen = s.inLen ∧
      (∀ k, 2 ≤ k → k < s.inLen.toNat - 2 → u.outByte k = s.inByte k) ∧
      u.outByte 0 = 0x7B ∧ u.outByte 1 = 0x7B ∧
      u.outByte (s.inLen.toNat - 2) = 0x7D ∧ u.outByte (s.inLen.toNat - 1) = 0x7D

/-- A command may change only the locations of its write set W(op) and STATUS (R125): every register outside it and
every byte of a window outside it holds what it held. -/
def Obligations.CommandsChangeOnlyTheirWriteSet : Prop :=
  ∀ (i : Instr) (s : State), s.dataLen.toNat ≤ s.params.maxData.val → ∃ t, exec i s = .next t ∧
    (∀ r, r ≠ .status → writesReg i r = false → t.regValue r = s.regValue r) ∧
    ∀ w k, writesWindow i w = false → k < windowCapacity s.params w →
      t.byteAt (windowAddr w k) = s.byteAt (windowAddr w k)

/-- FRAME_TOO_SHORT, DELIMITER_ERROR and CHECKSUM_MISMATCH are results of DECODE only, ILLEGAL_COMMAND of the ILLEGAL
commands exactly, and the reserved codes 4, 5 and 6 of none (R29, R211 to R214). -/
def Obligations.ResultCodesBelongToTheirCommands : Prop :=
  ∀ (i : Instr) (s : State), ∃ t, exec i s = .next t ∧
    (t.result = 1 ∨ t.result = 2 ∨ t.result = 3 → i = .decode) ∧
    (t.result = 7 ↔ 4 ≤ i.rowIndex) ∧ t.result ≠ 4 ∧ t.result ≠ 5 ∧ t.result ≠ 6 ∧
    (t.dcause ≠ 0 ↔ t.result = 2)

/-- Each command is a pure function of its operands (R46): two states that agree on the operands a command reads commit
the same values, whatever else they hold. -/
def Obligations.CommandResultsDependOnOperandsOnly : Prop :=
  ∀ s u : State,
    (s.inLen = u.inLen → (∀ k < s.inLen.toNat, s.inByte k = u.inByte k) →
      (∃ t v, exec .crc s = .next t ∧ exec .crc u = .next v ∧
        t.calcCrc = v.calcCrc ∧ t.result = v.result ∧ t.dcause = v.dcause) ∧
      ∃ t v, exec .decode s = .next t ∧ exec .decode u = .next v ∧ t.result = v.result ∧ t.dcause = v.dcause ∧
        (t.result = 0 ∨ t.result = 3 → t.rxCrc = v.rxCrc ∧ t.calcCrc = v.calcCrc) ∧
        (t.result = 0 → t.func = v.func ∧ t.dataLen = v.dataLen ∧
          ∀ k < t.dataLen.toNat, t.dataByte k = v.dataByte k)) ∧
    (s.func = u.func → s.dataLen = u.dataLen → (∀ k < s.dataLen.toNat, s.dataByte k = u.dataByte k) →
      ∃ t v, exec .encode s = .next t ∧ exec .encode u = .next v ∧ t.result = v.result ∧ t.dcause = v.dcause ∧
        t.outLen = v.outLen ∧ t.calcCrc = v.calcCrc ∧
        ∀ k < s.dataLen.toNat + 7, t.outByte k = v.outByte k) ∧
    ∀ i, i = .nop ∨ 4 ≤ i.rowIndex → ∃ t v, exec i s = .next t ∧ exec i u = .next v ∧
      t.result = v.result ∧ t.dcause = v.dcause

/-! ## The CRC unit -/

/-- The empty sequence has the initial value, and the register may take a whole byte at once: the eight single-bit steps
of a byte equal the high byte XORed with the steps of the low byte XORed with the input byte (R140, R142). -/
def Obligations.CrcByteStepEqualsTableStep : Prop :=
  crc16 [] = 0xFFFF ∧ (∀ (s : List Byte) (b : Byte), crc16 (s ++ [b]) = crcByte (crc16 s) b) ∧
  ∀ (c : Half) (b : Byte), crcByte c b = (c >>> 8) ^^^ crcByte 0 (c.setWidth 8 ^^^ b)

/-- A sequence followed by its own checksum, low byte first, has checksum 0 (R144). -/
def Obligations.CrcResidueIsZero : Prop :=
  ∀ s : List Byte, crc16 (s ++ [(crc16 s).setWidth 8, (crc16 s >>> 8).setWidth 8]) = 0

/-- The error-detection rule of the CRC (R145): the eight steps of a byte are a linear and invertible map; bit 15 of a
step is the bit shifted out; two sequences of equal length have checksums that differ by `crc0` of their difference;
`crc0` of a sequence that is non-zero at one index only is not 0; and so two sequences of equal length that differ in
exactly one byte have different checksums. -/
def Obligations.CrcDetectsEveryOneByteChange : Prop :=
  (∀ c d : Half, crcSteps 8 (c ^^^ d) = crcSteps 8 c ^^^ crcSteps 8 d) ∧
  (∀ c d : Half, crcSteps 8 c = crcSteps 8 d → c = d) ∧
  (∀ c : Half, (crcStep c).getLsbD 15 = c.getLsbD 0 ∧
    ∀ k < 15, (crcStep c).getLsbD k = (c.getLsbD (k + 1) ^^ (c.getLsbD 0 && (0xA001 : Half).getLsbD k))) ∧
  (∀ s t : List Byte, s.length = t.length →
    crc16 s ^^^ crc16 t = crcFrom 0 (List.zipWith (· ^^^ ·) s t)) ∧
  (∀ (m n : Nat) (e : Byte), e ≠ 0 → crcFrom 0 (List.replicate m 0 ++ e :: List.replicate n 0) ≠ 0) ∧
  ∀ (p q : List Byte) (a b : Byte), a ≠ b → crc16 (p ++ a :: q) ≠ crc16 (p ++ b :: q)

/-! ## The host bus -/

/-- A host access gets a bus error exactly when it is not legal (size, alignment, mapping, whole registers only), and then
changes no state; otherwise a read answers data and a write is accepted (R62, R63, R65). -/
def Obligations.BusErrorExactlyOnIllegalAccesses : Prop :=
  ∀ (a : Offset) (n : Nat) (v : Word) (s : State),
    (legalAccess s.params a.toNat n → (∃ d, (memRead a n s).1 = .data d) ∧ (memWrite a n v s).1 = .accepted) ∧
    (¬legalAccess s.params a.toNat n → memRead a n s = (.busError, s) ∧ memWrite a n v s = (.busError, s))

/-- A CMD write while idle issues the command of bits [7:0], for every opcode: CMD.OP and PENDING_OP take it, BUSY rises,
DONE falls (and with it IRQ), and every other register keeps its value; an opcode from 0x04 on is an illegal command's
(R120). -/
def Obligations.CmdWriteWhileIdleIssues : Prop :=
  ∀ (v : Word) (s : State), s.busy = false →
    memWrite 0x008 4 v s =
      (.accepted, { s with cmdOp := v.setWidth 8, pendingOp := some (v.setWidth 8), busy := true, done := false }) ∧
    (memWrite 0x008 4 v s).2.irq = false ∧ (4 ≤ (v.setWidth 8).toNat → 4 ≤ (decodeOp (v.setWidth 8)).rowIndex)

/-- A CMD write while BUSY = 1 is refused: WERR is set and nothing else changes, and the running command completes as if
the write had not happened (R123). -/
def Obligations.CmdWriteWhileBusyIsRefused : Prop :=
  ∀ (v : Word) (s : State), s.busy = true →
    memWrite 0x008 4 v s = (.accepted, { s with werr := true }) ∧
    ∀ i : Instr, ∃ t, exec i s = .next t ∧ exec i { s with werr := true } = .next { t with werr := true }

/-- The length registers take a legal value of bits [15:0] and refuse any other, setting WERR and nothing else
(R32, R35, R67). -/
def Obligations.LengthWritesAreCheckedAgainstCapacity : Prop :=
  ∀ (v : Word) (s : State), s.busy = false →
    memWrite 0x010 4 v s = (.accepted,
      if (v.setWidth 16).toNat ≤ s.params.bufBytes then { s with inLen := v.setWidth 16 } else { s with werr := true }) ∧
    memWrite 0x01C 4 v s = (.accepted,
      if (v.setWidth 16).toNat ≤ s.params.maxData.val then { s with dataLen := v.setWidth 16 }
      else { s with werr := true })

/-- What a register write stores besides: FUNC takes bits [7:0] while idle, CTRL takes bit 0 at any time, STATUS clears
DONE and WERR where a 1 is written and ignores every other bit, and the read-only registers ignore the write without a
flag (R24, R31, R34, R67, R68). -/
def Obligations.RegisterWritesStoreTheirFields : Prop :=
  ∀ (v : Word) (s : State),
    (s.busy = false → memWrite 0x018 4 v s = (.accepted, { s with func := v.setWidth 8 })) ∧
    memWrite 0x004 4 v s = (.accepted, { s with ie := v.getLsbD 0 }) ∧
    memWrite 0x00C 4 v s = (.accepted,
      { s with done := if v.getLsbD 1 then false else s.done, werr := if v.getLsbD 2 then false else s.werr }) ∧
    ∀ a ∈ [(0x000 : Offset), 0x014, 0x020, 0x024, 0x028], memWrite a 4 v s = (.accepted, s)

/-- A host write to any protected location while BUSY = 1 is refused: it sets WERR and changes nothing else; a legal
write to OUT is ignored without a flag at any time (R67). -/
def Obligations.ProtectedWritesWhileBusyAreRefused : Prop :=
  ∀ (a : Offset) (n : Nat) (v : Word) (s : State), legalAccess s.params a.toNat n →
    (s.busy = true → (a ∈ [(0x008 : Offset), 0x010, 0x018, 0x01C] ∨ (0x1000 ≤ a.toNat ∧ a.toNat < 0x2000) ∨
        0x3000 ≤ a.toNat) →
      memWrite a n v s = (.accepted, { s with werr := true })) ∧
    (0x2000 ≤ a.toNat → a.toNat < 0x3000 → memWrite a n v s = (.accepted, s))

/-- Where each field of STATUS reads, at any time: BUSY, DONE, WERR in bits 0 to 2, RESULT in [6:4], DCAUSE in [11:8],
every other bit 0; the read changes nothing (R26 to R31, R66, R69). -/
def Obligations.StatusReadLayout : Prop :=
  ∀ s : State, ∃ v, memRead 0x00C 4 s = (.data v, s) ∧
    v.getLsbD 0 = s.busy ∧ v.getLsbD 1 = s.done ∧ v.getLsbD 2 = s.werr ∧ v.getLsbD 3 = false ∧
    v.extractLsb' 4 3 = s.result ∧ v.getLsbD 7 = false ∧ v.extractLsb' 8 4 = s.dcause ∧ v >>> 12 = 0

/-- What every register reads as while idle, fields zero-extended; ID and PARAM are constants (R23, R38, R66). -/
def Obligations.IdleRegisterReads : Prop :=
  ∀ s : State, s.busy = false →
    memRead 0x000 4 s = (.data 0x41430001, s) ∧
    memRead 0x004 4 s = (.data (if s.ie then 1 else 0), s) ∧
    memRead 0x008 4 s = (.data (s.cmdOp.setWidth 32), s) ∧
    memRead 0x00C 4 s = (.data (s.dcause.setWidth 32 <<< 8 ||| s.result.setWidth 32 <<< 4
      ||| (if s.werr then 4 else 0) ||| (if s.done then 2 else 0)), s) ∧
    memRead 0x010 4 s = (.data (s.inLen.setWidth 32), s) ∧
    memRead 0x014 4 s = (.data (s.outLen.setWidth 32), s) ∧
    memRead 0x018 4 s = (.data (s.func.setWidth 32), s) ∧
    memRead 0x01C 4 s = (.data (s.dataLen.setWidth 32), s) ∧
    memRead 0x020 4 s = (.data (s.rxCrc.setWidth 32), s) ∧
    memRead 0x024 4 s = (.data (s.calcCrc.setWidth 32), s) ∧
    ∃ v, memRead 0x028 4 s = (.data v, s) ∧ v.toNat = s.params.bufBytes

/-- While a command runs, a read of a register of its write set answers a free value and changes only the index of the
next free value; a read of any other register answers its committed value. The write sets are R125's table (R76). The
index is the model's own field (log 5). -/
def Obligations.BusyReadsOfTheWriteSetAreFree : Prop :=
  ∀ (s : State) (op : Byte), s.busy = true → s.pendingOp = some op → ∀ r : Reg,
    let w : List Reg := if op = 0x01 then [.func, .dataLen, .rxCrc, .calcCrc]
      else if op = 0x02 then [.outLen, .calcCrc] else if op = 0x03 then [.calcCrc] else []
    memRead (regSymbol r) 4 s =
      if r ∈ w then (.data (Config.busyRead s.freeReads), { s with freeReads := s.freeReads + 1 })
      else (.data (s.regValue r), s)

/-- A legal read of a window answers the buffer bytes, byte `i` in bits [8i+7:8i], nothing above them, and changes
nothing: while idle, and while a command runs whose write set does not hold the window, which is every command but DECODE
for DATA and ENCODE for OUT (R64, R66, R76). -/
def Obligations.WindowReadsAreLittleEndian : Prop :=
  ∀ (a : Offset) (n : Nat) (s : State), legalAccess s.params a.toNat n → 0x1000 ≤ a.toNat →
    (s.busy = false ∨ ∃ op : Byte, s.pendingOp = some op ∧
      (op = 0x01 → a.toNat < 0x3000) ∧ (op = 0x02 → a.toNat < 0x2000 ∨ 0x3000 ≤ a.toNat)) →
    ∃ v, memRead a n s = (.data v, s) ∧ v.toNat < 2 ^ (8 * n) ∧
      ∀ i < n, (v >>> (8 * i)).setWidth 8 = s.byteAt (a.toNat + i)

/-- A legal read of DATA while a DECODE runs, or of OUT while an ENCODE runs, answers a free value of the access's size and
changes only the index of the next free value (R76). The index is the model's own field (log 5). -/
def Obligations.BusyWindowReadsOfTheWriteSetAreFree : Prop :=
  ∀ (a : Offset) (n : Nat) (op : Byte) (s : State), legalAccess s.params a.toNat n →
    s.busy = true → s.pendingOp = some op →
    ((op = 0x01 ∧ 0x3000 ≤ a.toNat) ∨ (op = 0x02 ∧ 0x2000 ≤ a.toNat ∧ a.toNat < 0x3000)) →
    memRead a n s = (.data (BitVec.ofNat 32 ((Config.busyRead s.freeReads).toNat % 2 ^ (8 * n))),
      { s with freeReads := s.freeReads + 1 })

/-- A legal write to IN or DATA while idle stores exactly its `n` bytes, byte `i` from bits [8i+7:8i], and a read of the
same access then answers the value's low 8n bits (R64, R67). -/
def Obligations.WindowWriteThenReadBack : Prop :=
  ∀ (a : Offset) (n : Nat) (v : Word) (s : State), legalAccess s.params a.toNat n → s.busy = false →
    ((0x1000 ≤ a.toNat ∧ a.toNat < 0x2000) ∨ 0x3000 ≤ a.toNat) →
    ∃ t, memWrite a n v s = (.accepted, t) ∧ { t with mem := s.mem } = s ∧
      (∀ i < n, t.byteAt (a.toNat + i) = (v >>> (8 * i)).setWidth 8) ∧
      (∀ x, x < a.toNat ∨ a.toNat + n ≤ x → t.byteAt x = s.byteAt x) ∧
      memRead a n t = (.data (BitVec.ofNat 32 (v.toNat % 2 ^ (8 * n))), t)

/-- No read has a side effect: the state after it differs at most in the index of the next free value, the model's own
field (log 5). A read of a location outside the running command's write set does not change even that, and answers the
same after any other read as before it, so two reads of it with only reads in between answer the same (R69). -/
def Obligations.ReadsHaveNoSideEffects : Prop :=
  ∀ (a : Offset) (n : Nat) (s : State), { (memRead a n s).2 with freeReads := s.freeReads } = s ∧
    ((∀ r : Reg, a = regSymbol r → s.regUnstable r = false) →
      (∀ w : Window, windowBase w ≤ a.toNat → a.toNat < windowBase w + windowCapacity s.params w →
        s.windowUnstable w = false) →
      (memRead a n s).2 = s ∧
      ∀ (b : Offset) (m : Nat), memRead a n (memRead b m s).2 = ((memRead a n s).1, (memRead b m s).2))

/-! ## The interrupt, the agents and whole-machine rules -/

/-- IRQ is DONE and IE: a completion raises it exactly when IE = 1, whatever the result; an issue lowers it; so does a
write of 1 to STATUS.DONE, and a write of 0 to IE, while DONE stays set; setting IE again raises it again (R44, R218). -/
def Obligations.IrqFollowsDoneAndEnable : Prop :=
  (∀ (i : Instr) (s : State), ∃ t, exec i s = .next t ∧ t.irq = s.ie) ∧
  (∀ (op : Byte) (s : State), (State.issue op s).irq = false) ∧
  (∀ (v : Word) (s : State), v.getLsbD 1 = true → (memWrite 0x00C 4 v s).2.irq = false) ∧
  ∀ (v w : Word) (s : State), v.getLsbD 0 = false → w.getLsbD 0 = true →
    (memWrite 0x004 4 v s).2.irq = false ∧ (memWrite 0x004 4 v s).2.done = s.done ∧
    (memWrite 0x004 4 w (memWrite 0x004 4 v s).2).2.irq = s.done

/-- Operand stability: no host step changes a running command or its operands: CMD.OP, PENDING_OP, the operand and result
registers and every buffer byte are as before, and the command still runs (R79). -/
def Obligations.HostStepsKeepARunningCommandsOperands : Prop :=
  ∀ s : State, s.busy = true → s.nextTurn = .host → ∃ t, step s = .next t ∧
    t.busy = true ∧ (s.done = false → t.done = false) ∧ t.pendingOp = s.pendingOp ∧ t.cmdOp = s.cmdOp ∧ t.inLen = s.inLen ∧
    SameLengthsAndFunc s t ∧ SameChecksums s t ∧ SameBytes s t

/-- What no host step changes, busy or idle: RESULT and DCAUSE, OUT_LEN, the checksum registers and every byte of OUT
(R29, R30, R33, R36, R37, R40, R67). Of the model's own fields it keeps BUF_BYTES (log 3), the reset count (log 4) and the
rest of the schedule (log 1). -/
def Obligations.HostStepsKeepResults : Prop :=
  ∀ s : State, s.nextTurn = .host → ∃ t, step s = .next t ∧
    t.result = s.result ∧ t.dcause = s.dcause ∧ t.outLen = s.outLen ∧ SameChecksums s t ∧
    (∀ k < s.params.bufBytes, t.outByte k = s.outByte k) ∧
    t.params = s.params ∧ t.epoch = s.epoch ∧ t.schedule = s.schedule.tail

/-- Only a completion or a reset clears BUSY, and only a completion sets DONE (R27, R121). -/
def Obligations.OnlyTheEngineAndResetClearBusy : Prop :=
  ∀ s t : State, step s = .next t →
    (s.busy = true → t.busy = false → s.nextTurn = .engine ∨ s.nextTurn = .reset) ∧
    (s.done = false → t.done = true → s.nextTurn = .engine ∧ s.busy = true)

/-- WERR is sticky: a step clears it only by a reset or by a host write to STATUS with bit 2 = 1 (R28). -/
def Obligations.WerrIsSticky : Prop :=
  ∀ s t : State, step s = .next t → s.werr = true → t.werr = false →
    s.nextTurn = .reset ∨
    (s.nextTurn = .host ∧ ∃ v w rest, s.host.program = .wr 4 0x00C v :: rest ∧ s.host.value v = some w ∧
      w.getLsbD 2 = true)

/-- The host's WR, of a number or of a variable read earlier, and its RD perform their access and go on, or end the program
at a bus error; either way the access, with its response, joins the host's log, and its written form the program's
encoding (R100, R102). That a variable takes the read's data as it is, 32 bits wide, is log 10. -/
def Obligations.HostStatementsPerformTheirAccess : Prop :=
  ∀ (s : State) (n : Nat) (a : Offset) (rest : List HostStmt), s.host.status = .running →
    (∀ (v : HostValue) (w : Word), s.host.program = .wr n a v :: rest → s.host.value v = some w →
      (hostTurn s).host.encoding = s.host.encoding ++ [Transaction.render (.write n a w)] ∧
      (hostTurn s).host.vars = s.host.vars ∧
      (legalAccess s.params a.toNat n → (hostTurn s).host.program = rest ∧ (hostTurn s).host.status = .running ∧
        (hostTurn s).host.log = s.host.log ++ [(.write n a w, .accepted)] ∧
        { hostTurn s with host := s.host } = (memWrite a n w s).2) ∧
      (¬legalAccess s.params a.toNat n → (hostTurn s).host.status = .busError ∧
        (hostTurn s).host.log = s.host.log ++ [(.write n a w, .busError)] ∧
        { hostTurn s with host := s.host } = s)) ∧
    ∀ x : Nat, s.host.program = .rd n a x :: rest →
      (hostTurn s).host.encoding = s.host.encoding ++ [Transaction.render (.read n a)] ∧
      (∀ d t, memRead a n s = (.data d, t) → (hostTurn s).host.program = rest ∧ (hostTurn s).host.status = .running ∧
        (hostTurn s).host.log = s.host.log ++ [(.read n a, .data d)] ∧
        (hostTurn s).host.value (.var x) = some d ∧
        (∀ y, y ≠ x → (hostTurn s).host.value (.var y) = s.host.value (.var y)) ∧
        { hostTurn s with host := s.host } = t) ∧
      (¬legalAccess s.params a.toNat n → (hostTurn s).host.status = .busError ∧
        (hostTurn s).host.log = s.host.log ++ [(.read n a, .busError)] ∧
        { hostTurn s with host := s.host } = s)

/-- POLL reads and stays until the masked value is the wanted one, each read joining the program's encoding, and EXPECT
makes no bus access: it goes on exactly when the variable holds the value (R100, R102). Mask and value are numbers or
variables read earlier. Four things here are the model's: that a POLL reads once a turn and that its `$t` is no host
variable (log 11), that its mask may be a variable (log 24), and that a failed EXPECT ends the program (log 8). -/
def Obligations.PollAndExpectFollowTheNotation : Prop :=
  ∀ (s : State) (a : Offset) (rest : List HostStmt), s.host.status = .running →
    (∀ (m v : HostValue) (mask want : Word), s.host.program = .poll a m v :: rest →
      s.host.value m = some mask → s.host.value v = some want →
      (hostTurn s).host.encoding = s.host.encoding ++ [Transaction.render (.read 4 a)] ∧
      (hostTurn s).host.vars = s.host.vars ∧
      (∀ d t, memRead a 4 s = (.data d, t) → (hostTurn s).host.status = .running ∧
        (hostTurn s).host.program = (if d &&& mask = want then rest else s.host.program) ∧
        (hostTurn s).host.log = s.host.log ++ [(.read 4 a, .data d)] ∧
        { hostTurn s with host := s.host } = t) ∧
      (¬legalAccess s.params a.toNat 4 → (hostTurn s).host.status = .busError ∧
        { hostTurn s with host := s.host } = s)) ∧
    ∀ (x : Nat) (v : HostValue) (d want : Word), s.host.value (.var x) = some d → s.host.value v = some want →
      s.host.program = .expect x v :: rest →
      { hostTurn s with host := s.host } = s ∧ (hostTurn s).host.log = s.host.log ∧
      (d = want → (hostTurn s).host.program = rest ∧ (hostTurn s).host.status = .running) ∧
      (d ≠ want → (hostTurn s).host.status = .expectFailed)

/-- LOADIN and LOADDATA, from an idle block and with no other turn scheduled, put the bytes into the buffer from index 0
on and the length into its register (R100, R101); every byte outside them is unchanged. That each statement takes the very
next step is the model's default turn (log 1), and that the bytes are literal is log 23. -/
def Obligations.LoadsPlaceBytesAndLength : Prop :=
  ∀ (s : State) (bs : List Byte) (rest : List HostStmt), s.busy = false → s.schedule = [] → s.host.status = .running →
    (bs.length ≤ s.params.bufBytes → s.host.program = loadIn bs ++ rest →
      ∃ t, Sys2Proof.core.run (bs.length + 1) s = .next t ∧ t.host.program = rest ∧ t.host.status = .running ∧
        t.inLen.toNat = bs.length ∧ (∀ k, (h : k < bs.length) → t.inByte k = bs[k]) ∧
        ∀ a, a < 0x1000 ∨ 0x1000 + bs.length ≤ a → t.byteAt a = s.byteAt a) ∧
    (bs.length ≤ s.params.maxData.val → s.host.program = loadData bs ++ rest →
      ∃ t, Sys2Proof.core.run (bs.length + 1) s = .next t ∧ t.host.program = rest ∧ t.host.status = .running ∧
        t.dataLen.toNat = bs.length ∧ (∀ k, (h : k < bs.length) → t.dataByte k = bs[k]) ∧
        ∀ a, a < 0x3000 ∨ 0x3000 + bs.length ≤ a → t.byteAt a = s.byteAt a)

/-- RUN op, from an idle block and with no other turn scheduled, issues the command, lets it complete and goes on after
its WAIT (R101). That this takes three steps, in which the command word is accepted, the engine completes it and one poll
sees BUSY = 0, is the model's: the spec leaves open when the command completes (R124), the default turn is log 1, one
read of a poll for each turn is log 11, and that op is a literal opcode is log 23. -/
def Obligations.RunIssuesAndWaits : Prop :=
  ∀ (s : State) (op : Byte) (rest : List HostStmt), s.busy = false → s.schedule = [] → s.host.status = .running →
    s.host.program = runCommand op ++ rest →
    ∃ t, Sys2Proof.core.run 3 s = .next t ∧ t.host.program = rest ∧ t.host.status = .running ∧
      t.cmdOp = op ∧ t.busy = false ∧ t.done = true ∧
      ∃ u, exec (decodeOp op) (State.issue op s) = .next u ∧ { t with host := s.host } = u

/-! ## Reset, the invariant and progress -/

/-- A buffer byte that no step has written keeps its unspecified value: a step other than a reset that leaves the written
bytes' entry at an offset as it was leaves the byte read there as it was, written or not (R71). That the value is a free
value of the model is log 4. -/
def Obligations.UnwrittenBytesAreFixedUntilWritten : Prop :=
  ∀ (s t : State) (a : Nat), step s = .next t → s.nextTurn ≠ .reset → lookupCell t.mem a = lookupCell s.mem a →
    t.byteAt a = s.byteAt a ∧ t.epoch = s.epoch

/-- RESET, from any state and whatever runs: every register field takes its reset value, the running command is gone, IRQ
is low; every register then reads 0 but ID and PARAM (R240, R241). -/
def Obligations.ResetStepClearsEveryRegister : Prop :=
  ∀ s : State, s.nextTurn = .reset → ∃ t, step s = .next t ∧
    t.busy = false ∧ t.pendingOp = none ∧ t.irq = false ∧ t.params = s.params ∧
    ∀ r : Reg, memRead (regSymbol r) 4 t =
      (.data (if r = .id then 0x41430001 else if r = .param then BitVec.ofNat 32 s.params.bufBytes else 0), t)

/-- After reset every register reads 0 but ID and PARAM, for every BUF_BYTES; the block is idle, IRQ is low, and no buffer
byte holds a written value (R241). -/
def Obligations.ResetRegistersReadZero : Prop :=
  ∀ (p : Params) (r : Reg),
    (State.resetWith p).busy = false ∧ (State.resetWith p).pendingOp = none ∧ (State.resetWith p).irq = false ∧
    (∀ a, lookupCell (State.resetWith p).mem a = none) ∧
    memRead (regSymbol r) 4 (State.resetWith p) =
      (.data (if r = .id then 0x41430001 else if r = .param then BitVec.ofNat 32 p.bufBytes else 0), State.resetWith p)

/-- The invariant holds after reset, for every BUF_BYTES. -/
def Obligations.InvariantHoldsAtReset : Prop := State.reset.Inv ∧ ∀ p : Params, (State.resetWith p).Inv

/-- Every step keeps the invariant: the memory stays canonical and inside the buffers, the lengths legal, PENDING_OP equal
to CMD.OP while BUSY = 1, DONE = 0 throughout BUSY, RESULT an assigned code, DCAUSE non-zero exactly with
DELIMITER_ERROR. -/
def Obligations.EveryStepKeepsTheInvariant : Prop := ∀ s t : State, s.Inv → step s = .next t → t.Inv

/-- No step from a state of the invariant stops: the block has no fatal outcome (R210). -/
def Obligations.InvariantStatesNeverStop : Prop := ∀ s : State, s.Inv → s.stepsSafely

/-- Progress: a running command reaches its completion step, or a reset, after at most as many steps as the schedule has
turns; until then the command and its opcode are still there, and that step clears BUSY (R124). The bound is the
model's: its schedule is finite (log 1). -/
def Obligations.EveryIssuedCommandCompletes : Prop :=
  ∀ s : State, s.Inv → s.busy = true → ∃ k t u, k ≤ s.schedule.length ∧ Sys2Proof.core.run k s = .next t ∧
    t.busy = true ∧ t.pendingOp = s.pendingOp ∧ (t.nextTurn = .engine ∨ t.nextTurn = .reset) ∧
    step t = .next u ∧ u.busy = false
end

