-- ==== Sys2Proof/Laws/State.lean ====
section
/-! SUPPORT. One lemma per field per named update of the state, so that no proof unfolds a record update. -/

namespace Sys2Proof.Machine

section issue
variable (op : Byte) (s : State)

@[simp] theorem State.issue_ie : (State.issue op s).ie = s.ie := rfl
@[simp] theorem State.issue_cmdOp : (State.issue op s).cmdOp = op := rfl
@[simp] theorem State.issue_busy : (State.issue op s).busy = true := rfl
@[simp] theorem State.issue_done : (State.issue op s).done = false := rfl
@[simp] theorem State.issue_werr : (State.issue op s).werr = s.werr := rfl
@[simp] theorem State.issue_result : (State.issue op s).result = s.result := rfl
@[simp] theorem State.issue_dcause : (State.issue op s).dcause = s.dcause := rfl
@[simp] theorem State.issue_inLen : (State.issue op s).inLen = s.inLen := rfl
@[simp] theorem State.issue_outLen : (State.issue op s).outLen = s.outLen := rfl
@[simp] theorem State.issue_func : (State.issue op s).func = s.func := rfl
@[simp] theorem State.issue_dataLen : (State.issue op s).dataLen = s.dataLen := rfl
@[simp] theorem State.issue_rxCrc : (State.issue op s).rxCrc = s.rxCrc := rfl
@[simp] theorem State.issue_calcCrc : (State.issue op s).calcCrc = s.calcCrc := rfl
@[simp] theorem State.issue_mem : (State.issue op s).mem = s.mem := rfl
@[simp] theorem State.issue_pendingOp : (State.issue op s).pendingOp = some op := rfl
@[simp] theorem State.issue_params : (State.issue op s).params = s.params := rfl
@[simp] theorem State.issue_epoch : (State.issue op s).epoch = s.epoch := rfl
@[simp] theorem State.issue_freeReads : (State.issue op s).freeReads = s.freeReads := rfl
@[simp] theorem State.issue_schedule : (State.issue op s).schedule = s.schedule := rfl
@[simp] theorem State.issue_host : (State.issue op s).host = s.host := rfl

end issue

section complete
variable (c : ResultCode) (d : BitVec 4) (s : State)

@[simp] theorem State.complete_ie : (State.complete c d s).ie = s.ie := rfl
@[simp] theorem State.complete_cmdOp : (State.complete c d s).cmdOp = s.cmdOp := rfl
@[simp] theorem State.complete_busy : (State.complete c d s).busy = false := rfl
@[simp] theorem State.complete_done : (State.complete c d s).done = true := rfl
@[simp] theorem State.complete_werr : (State.complete c d s).werr = s.werr := rfl
@[simp] theorem State.complete_result : (State.complete c d s).result = ResultCode.bits c := rfl
@[simp] theorem State.complete_dcause : (State.complete c d s).dcause = d := rfl
@[simp] theorem State.complete_inLen : (State.complete c d s).inLen = s.inLen := rfl
@[simp] theorem State.complete_outLen : (State.complete c d s).outLen = s.outLen := rfl
@[simp] theorem State.complete_func : (State.complete c d s).func = s.func := rfl
@[simp] theorem State.complete_dataLen : (State.complete c d s).dataLen = s.dataLen := rfl
@[simp] theorem State.complete_rxCrc : (State.complete c d s).rxCrc = s.rxCrc := rfl
@[simp] theorem State.complete_calcCrc : (State.complete c d s).calcCrc = s.calcCrc := rfl
@[simp] theorem State.complete_mem : (State.complete c d s).mem = s.mem := rfl
@[simp] theorem State.complete_pendingOp : (State.complete c d s).pendingOp = none := rfl
@[simp] theorem State.complete_params : (State.complete c d s).params = s.params := rfl
@[simp] theorem State.complete_epoch : (State.complete c d s).epoch = s.epoch := rfl
@[simp] theorem State.complete_freeReads : (State.complete c d s).freeReads = s.freeReads := rfl
@[simp] theorem State.complete_schedule : (State.complete c d s).schedule = s.schedule := rfl
@[simp] theorem State.complete_host : (State.complete c d s).host = s.host := rfl

end complete

section refuseWrite
variable (s : State)

@[simp] theorem State.refuseWrite_ie : s.refuseWrite.ie = s.ie := rfl
@[simp] theorem State.refuseWrite_cmdOp : s.refuseWrite.cmdOp = s.cmdOp := rfl
@[simp] theorem State.refuseWrite_busy : s.refuseWrite.busy = s.busy := rfl
@[simp] theorem State.refuseWrite_done : s.refuseWrite.done = s.done := rfl
@[simp] theorem State.refuseWrite_werr : s.refuseWrite.werr = true := rfl
@[simp] theorem State.refuseWrite_result : s.refuseWrite.result = s.result := rfl
@[simp] theorem State.refuseWrite_dcause : s.refuseWrite.dcause = s.dcause := rfl
@[simp] theorem State.refuseWrite_inLen : s.refuseWrite.inLen = s.inLen := rfl
@[simp] theorem State.refuseWrite_outLen : s.refuseWrite.outLen = s.outLen := rfl
@[simp] theorem State.refuseWrite_func : s.refuseWrite.func = s.func := rfl
@[simp] theorem State.refuseWrite_dataLen : s.refuseWrite.dataLen = s.dataLen := rfl
@[simp] theorem State.refuseWrite_rxCrc : s.refuseWrite.rxCrc = s.rxCrc := rfl
@[simp] theorem State.refuseWrite_calcCrc : s.refuseWrite.calcCrc = s.calcCrc := rfl
@[simp] theorem State.refuseWrite_mem : s.refuseWrite.mem = s.mem := rfl
@[simp] theorem State.refuseWrite_pendingOp : s.refuseWrite.pendingOp = s.pendingOp := rfl
@[simp] theorem State.refuseWrite_params : s.refuseWrite.params = s.params := rfl
@[simp] theorem State.refuseWrite_epoch : s.refuseWrite.epoch = s.epoch := rfl
@[simp] theorem State.refuseWrite_freeReads : s.refuseWrite.freeReads = s.freeReads := rfl
@[simp] theorem State.refuseWrite_schedule : s.refuseWrite.schedule = s.schedule := rfl
@[simp] theorem State.refuseWrite_host : s.refuseWrite.host = s.host := rfl

end refuseWrite

section resetBlock
variable (s : State)

@[simp] theorem State.resetBlock_ie : s.resetBlock.ie = false := rfl
@[simp] theorem State.resetBlock_cmdOp : s.resetBlock.cmdOp = 0 := rfl
@[simp] theorem State.resetBlock_busy : s.resetBlock.busy = false := rfl
@[simp] theorem State.resetBlock_done : s.resetBlock.done = false := rfl
@[simp] theorem State.resetBlock_werr : s.resetBlock.werr = false := rfl
@[simp] theorem State.resetBlock_result : s.resetBlock.result = 0 := rfl
@[simp] theorem State.resetBlock_dcause : s.resetBlock.dcause = 0 := rfl
@[simp] theorem State.resetBlock_inLen : s.resetBlock.inLen = 0 := rfl
@[simp] theorem State.resetBlock_outLen : s.resetBlock.outLen = 0 := rfl
@[simp] theorem State.resetBlock_func : s.resetBlock.func = 0 := rfl
@[simp] theorem State.resetBlock_dataLen : s.resetBlock.dataLen = 0 := rfl
@[simp] theorem State.resetBlock_rxCrc : s.resetBlock.rxCrc = 0 := rfl
@[simp] theorem State.resetBlock_calcCrc : s.resetBlock.calcCrc = 0 := rfl
@[simp] theorem State.resetBlock_mem : s.resetBlock.mem = [] := rfl
@[simp] theorem State.resetBlock_pendingOp : s.resetBlock.pendingOp = none := rfl
@[simp] theorem State.resetBlock_params : s.resetBlock.params = s.params := rfl
@[simp] theorem State.resetBlock_epoch : s.resetBlock.epoch = s.epoch + 1 := rfl
@[simp] theorem State.resetBlock_freeReads : s.resetBlock.freeReads = s.freeReads := rfl
@[simp] theorem State.resetBlock_schedule : s.resetBlock.schedule = s.schedule := rfl
@[simp] theorem State.resetBlock_host : s.resetBlock.host = s.host := rfl

end resetBlock

section setBytes
variable (s : State) (a : Nat) (bs : List Byte)

@[simp] theorem State.setBytes_ie : (s.setBytes a bs).ie = s.ie := rfl
@[simp] theorem State.setBytes_cmdOp : (s.setBytes a bs).cmdOp = s.cmdOp := rfl
@[simp] theorem State.setBytes_busy : (s.setBytes a bs).busy = s.busy := rfl
@[simp] theorem State.setBytes_done : (s.setBytes a bs).done = s.done := rfl
@[simp] theorem State.setBytes_werr : (s.setBytes a bs).werr = s.werr := rfl
@[simp] theorem State.setBytes_result : (s.setBytes a bs).result = s.result := rfl
@[simp] theorem State.setBytes_dcause : (s.setBytes a bs).dcause = s.dcause := rfl
@[simp] theorem State.setBytes_inLen : (s.setBytes a bs).inLen = s.inLen := rfl
@[simp] theorem State.setBytes_outLen : (s.setBytes a bs).outLen = s.outLen := rfl
@[simp] theorem State.setBytes_func : (s.setBytes a bs).func = s.func := rfl
@[simp] theorem State.setBytes_dataLen : (s.setBytes a bs).dataLen = s.dataLen := rfl
@[simp] theorem State.setBytes_rxCrc : (s.setBytes a bs).rxCrc = s.rxCrc := rfl
@[simp] theorem State.setBytes_calcCrc : (s.setBytes a bs).calcCrc = s.calcCrc := rfl
@[simp] theorem State.setBytes_mem : (s.setBytes a bs).mem = storeCells s.mem a bs := rfl
@[simp] theorem State.setBytes_pendingOp : (s.setBytes a bs).pendingOp = s.pendingOp := rfl
@[simp] theorem State.setBytes_params : (s.setBytes a bs).params = s.params := rfl
@[simp] theorem State.setBytes_epoch : (s.setBytes a bs).epoch = s.epoch := rfl
@[simp] theorem State.setBytes_freeReads : (s.setBytes a bs).freeReads = s.freeReads := rfl
@[simp] theorem State.setBytes_schedule : (s.setBytes a bs).schedule = s.schedule := rfl
@[simp] theorem State.setBytes_host : (s.setBytes a bs).host = s.host := rfl

end setBytes

section stageChecksums
variable (s : State)

@[simp] theorem State.stageChecksums_ie : s.stageChecksums.ie = s.ie := rfl
@[simp] theorem State.stageChecksums_cmdOp : s.stageChecksums.cmdOp = s.cmdOp := rfl
@[simp] theorem State.stageChecksums_busy : s.stageChecksums.busy = s.busy := rfl
@[simp] theorem State.stageChecksums_done : s.stageChecksums.done = s.done := rfl
@[simp] theorem State.stageChecksums_werr : s.stageChecksums.werr = s.werr := rfl
@[simp] theorem State.stageChecksums_result : s.stageChecksums.result = s.result := rfl
@[simp] theorem State.stageChecksums_dcause : s.stageChecksums.dcause = s.dcause := rfl
@[simp] theorem State.stageChecksums_inLen : s.stageChecksums.inLen = s.inLen := rfl
@[simp] theorem State.stageChecksums_outLen : s.stageChecksums.outLen = s.outLen := rfl
@[simp] theorem State.stageChecksums_func : s.stageChecksums.func = s.func := rfl
@[simp] theorem State.stageChecksums_dataLen : s.stageChecksums.dataLen = s.dataLen := rfl
@[simp] theorem State.stageChecksums_rxCrc : s.stageChecksums.rxCrc = s.wireChecksum := rfl
@[simp] theorem State.stageChecksums_calcCrc : s.stageChecksums.calcCrc = crc16 s.wireCovered := rfl
@[simp] theorem State.stageChecksums_mem : s.stageChecksums.mem = s.mem := rfl
@[simp] theorem State.stageChecksums_pendingOp : s.stageChecksums.pendingOp = s.pendingOp := rfl
@[simp] theorem State.stageChecksums_params : s.stageChecksums.params = s.params := rfl
@[simp] theorem State.stageChecksums_epoch : s.stageChecksums.epoch = s.epoch := rfl
@[simp] theorem State.stageChecksums_freeReads : s.stageChecksums.freeReads = s.freeReads := rfl
@[simp] theorem State.stageChecksums_schedule : s.stageChecksums.schedule = s.schedule := rfl
@[simp] theorem State.stageChecksums_host : s.stageChecksums.host = s.host := rfl

end stageChecksums

section stageFrame
variable (s : State)

@[simp] theorem State.stageFrame_ie : s.stageFrame.ie = s.ie := rfl
@[simp] theorem State.stageFrame_cmdOp : s.stageFrame.cmdOp = s.cmdOp := rfl
@[simp] theorem State.stageFrame_busy : s.stageFrame.busy = s.busy := rfl
@[simp] theorem State.stageFrame_done : s.stageFrame.done = s.done := rfl
@[simp] theorem State.stageFrame_werr : s.stageFrame.werr = s.werr := rfl
@[simp] theorem State.stageFrame_result : s.stageFrame.result = s.result := rfl
@[simp] theorem State.stageFrame_dcause : s.stageFrame.dcause = s.dcause := rfl
@[simp] theorem State.stageFrame_inLen : s.stageFrame.inLen = s.inLen := rfl
@[simp] theorem State.stageFrame_outLen : s.stageFrame.outLen = s.outLen := rfl
@[simp] theorem State.stageFrame_func : s.stageFrame.func = s.inByte 2 := rfl
@[simp] theorem State.stageFrame_dataLen : s.stageFrame.dataLen = s.inLen - 7 := rfl
@[simp] theorem State.stageFrame_rxCrc : s.stageFrame.rxCrc = s.rxCrc := rfl
@[simp] theorem State.stageFrame_calcCrc : s.stageFrame.calcCrc = s.calcCrc := rfl
@[simp] theorem State.stageFrame_mem : s.stageFrame.mem = storeCells s.mem Config.dataBase s.wirePayload := rfl
@[simp] theorem State.stageFrame_pendingOp : s.stageFrame.pendingOp = s.pendingOp := rfl
@[simp] theorem State.stageFrame_params : s.stageFrame.params = s.params := rfl
@[simp] theorem State.stageFrame_epoch : s.stageFrame.epoch = s.epoch := rfl
@[simp] theorem State.stageFrame_freeReads : s.stageFrame.freeReads = s.freeReads := rfl
@[simp] theorem State.stageFrame_schedule : s.stageFrame.schedule = s.schedule := rfl
@[simp] theorem State.stageFrame_host : s.stageFrame.host = s.host := rfl

end stageFrame

section stageWire
variable (s : State)

@[simp] theorem State.stageWire_ie : s.stageWire.ie = s.ie := rfl
@[simp] theorem State.stageWire_cmdOp : s.stageWire.cmdOp = s.cmdOp := rfl
@[simp] theorem State.stageWire_busy : s.stageWire.busy = s.busy := rfl
@[simp] theorem State.stageWire_done : s.stageWire.done = s.done := rfl
@[simp] theorem State.stageWire_werr : s.stageWire.werr = s.werr := rfl
@[simp] theorem State.stageWire_result : s.stageWire.result = s.result := rfl
@[simp] theorem State.stageWire_dcause : s.stageWire.dcause = s.dcause := rfl
@[simp] theorem State.stageWire_inLen : s.stageWire.inLen = s.inLen := rfl
@[simp] theorem State.stageWire_outLen : s.stageWire.outLen = s.dataLen + 7 := rfl
@[simp] theorem State.stageWire_func : s.stageWire.func = s.func := rfl
@[simp] theorem State.stageWire_dataLen : s.stageWire.dataLen = s.dataLen := rfl
@[simp] theorem State.stageWire_rxCrc : s.stageWire.rxCrc = s.rxCrc := rfl
@[simp] theorem State.stageWire_calcCrc : s.stageWire.calcCrc = crc16 s.frame.covered := rfl
@[simp] theorem State.stageWire_mem : s.stageWire.mem = storeCells s.mem Config.outBase s.frame.wire := rfl
@[simp] theorem State.stageWire_pendingOp : s.stageWire.pendingOp = s.pendingOp := rfl
@[simp] theorem State.stageWire_params : s.stageWire.params = s.params := rfl
@[simp] theorem State.stageWire_epoch : s.stageWire.epoch = s.epoch := rfl
@[simp] theorem State.stageWire_freeReads : s.stageWire.freeReads = s.freeReads := rfl
@[simp] theorem State.stageWire_schedule : s.stageWire.schedule = s.schedule := rfl
@[simp] theorem State.stageWire_host : s.stageWire.host = s.host := rfl

end stageWire

section writeStatus
variable (v : Word) (s : State)

@[simp] theorem State.writeStatus_ie : (State.writeStatus v s).ie = s.ie := rfl
@[simp] theorem State.writeStatus_cmdOp : (State.writeStatus v s).cmdOp = s.cmdOp := rfl
@[simp] theorem State.writeStatus_busy : (State.writeStatus v s).busy = s.busy := rfl
@[simp] theorem State.writeStatus_done : (State.writeStatus v s).done = (s.done && !v.getLsbD 1) := rfl
@[simp] theorem State.writeStatus_werr : (State.writeStatus v s).werr = (s.werr && !v.getLsbD 2) := rfl
@[simp] theorem State.writeStatus_result : (State.writeStatus v s).result = s.result := rfl
@[simp] theorem State.writeStatus_dcause : (State.writeStatus v s).dcause = s.dcause := rfl
@[simp] theorem State.writeStatus_inLen : (State.writeStatus v s).inLen = s.inLen := rfl
@[simp] theorem State.writeStatus_outLen : (State.writeStatus v s).outLen = s.outLen := rfl
@[simp] theorem State.writeStatus_func : (State.writeStatus v s).func = s.func := rfl
@[simp] theorem State.writeStatus_dataLen : (State.writeStatus v s).dataLen = s.dataLen := rfl
@[simp] theorem State.writeStatus_rxCrc : (State.writeStatus v s).rxCrc = s.rxCrc := rfl
@[simp] theorem State.writeStatus_calcCrc : (State.writeStatus v s).calcCrc = s.calcCrc := rfl
@[simp] theorem State.writeStatus_mem : (State.writeStatus v s).mem = s.mem := rfl
@[simp] theorem State.writeStatus_pendingOp : (State.writeStatus v s).pendingOp = s.pendingOp := rfl
@[simp] theorem State.writeStatus_params : (State.writeStatus v s).params = s.params := rfl
@[simp] theorem State.writeStatus_epoch : (State.writeStatus v s).epoch = s.epoch := rfl
@[simp] theorem State.writeStatus_freeReads : (State.writeStatus v s).freeReads = s.freeReads := rfl
@[simp] theorem State.writeStatus_schedule : (State.writeStatus v s).schedule = s.schedule := rfl
@[simp] theorem State.writeStatus_host : (State.writeStatus v s).host = s.host := rfl

end writeStatus

section dropTurn
variable (s : State)

@[simp] theorem State.dropTurn_ie : s.dropTurn.ie = s.ie := rfl
@[simp] theorem State.dropTurn_cmdOp : s.dropTurn.cmdOp = s.cmdOp := rfl
@[simp] theorem State.dropTurn_busy : s.dropTurn.busy = s.busy := rfl
@[simp] theorem State.dropTurn_done : s.dropTurn.done = s.done := rfl
@[simp] theorem State.dropTurn_werr : s.dropTurn.werr = s.werr := rfl
@[simp] theorem State.dropTurn_result : s.dropTurn.result = s.result := rfl
@[simp] theorem State.dropTurn_dcause : s.dropTurn.dcause = s.dcause := rfl
@[simp] theorem State.dropTurn_inLen : s.dropTurn.inLen = s.inLen := rfl
@[simp] theorem State.dropTurn_outLen : s.dropTurn.outLen = s.outLen := rfl
@[simp] theorem State.dropTurn_func : s.dropTurn.func = s.func := rfl
@[simp] theorem State.dropTurn_dataLen : s.dropTurn.dataLen = s.dataLen := rfl
@[simp] theorem State.dropTurn_rxCrc : s.dropTurn.rxCrc = s.rxCrc := rfl
@[simp] theorem State.dropTurn_calcCrc : s.dropTurn.calcCrc = s.calcCrc := rfl
@[simp] theorem State.dropTurn_mem : s.dropTurn.mem = s.mem := rfl
@[simp] theorem State.dropTurn_pendingOp : s.dropTurn.pendingOp = s.pendingOp := rfl
@[simp] theorem State.dropTurn_params : s.dropTurn.params = s.params := rfl
@[simp] theorem State.dropTurn_epoch : s.dropTurn.epoch = s.epoch := rfl
@[simp] theorem State.dropTurn_freeReads : s.dropTurn.freeReads = s.freeReads := rfl
@[simp] theorem State.dropTurn_schedule : s.dropTurn.schedule = s.schedule.tail := rfl
@[simp] theorem State.dropTurn_host : s.dropTurn.host = s.host := rfl

end dropTurn

section endHost
variable (w : HostStatus) (s : State)

@[simp] theorem State.endHost_ie : (State.endHost w s).ie = s.ie := rfl
@[simp] theorem State.endHost_cmdOp : (State.endHost w s).cmdOp = s.cmdOp := rfl
@[simp] theorem State.endHost_busy : (State.endHost w s).busy = s.busy := rfl
@[simp] theorem State.endHost_done : (State.endHost w s).done = s.done := rfl
@[simp] theorem State.endHost_werr : (State.endHost w s).werr = s.werr := rfl
@[simp] theorem State.endHost_result : (State.endHost w s).result = s.result := rfl
@[simp] theorem State.endHost_dcause : (State.endHost w s).dcause = s.dcause := rfl
@[simp] theorem State.endHost_inLen : (State.endHost w s).inLen = s.inLen := rfl
@[simp] theorem State.endHost_outLen : (State.endHost w s).outLen = s.outLen := rfl
@[simp] theorem State.endHost_func : (State.endHost w s).func = s.func := rfl
@[simp] theorem State.endHost_dataLen : (State.endHost w s).dataLen = s.dataLen := rfl
@[simp] theorem State.endHost_rxCrc : (State.endHost w s).rxCrc = s.rxCrc := rfl
@[simp] theorem State.endHost_calcCrc : (State.endHost w s).calcCrc = s.calcCrc := rfl
@[simp] theorem State.endHost_mem : (State.endHost w s).mem = s.mem := rfl
@[simp] theorem State.endHost_pendingOp : (State.endHost w s).pendingOp = s.pendingOp := rfl
@[simp] theorem State.endHost_params : (State.endHost w s).params = s.params := rfl
@[simp] theorem State.endHost_epoch : (State.endHost w s).epoch = s.epoch := rfl
@[simp] theorem State.endHost_freeReads : (State.endHost w s).freeReads = s.freeReads := rfl
@[simp] theorem State.endHost_schedule : (State.endHost w s).schedule = s.schedule := rfl
@[simp] theorem State.endHost_host : (State.endHost w s).host = { s.host with status := w } := rfl

end endHost

section continueHost
variable (r : List HostStmt) (s : State)

@[simp] theorem State.continueHost_ie : (State.continueHost r s).ie = s.ie := rfl
@[simp] theorem State.continueHost_cmdOp : (State.continueHost r s).cmdOp = s.cmdOp := rfl
@[simp] theorem State.continueHost_busy : (State.continueHost r s).busy = s.busy := rfl
@[simp] theorem State.continueHost_done : (State.continueHost r s).done = s.done := rfl
@[simp] theorem State.continueHost_werr : (State.continueHost r s).werr = s.werr := rfl
@[simp] theorem State.continueHost_result : (State.continueHost r s).result = s.result := rfl
@[simp] theorem State.continueHost_dcause : (State.continueHost r s).dcause = s.dcause := rfl
@[simp] theorem State.continueHost_inLen : (State.continueHost r s).inLen = s.inLen := rfl
@[simp] theorem State.continueHost_outLen : (State.continueHost r s).outLen = s.outLen := rfl
@[simp] theorem State.continueHost_func : (State.continueHost r s).func = s.func := rfl
@[simp] theorem State.continueHost_dataLen : (State.continueHost r s).dataLen = s.dataLen := rfl
@[simp] theorem State.continueHost_rxCrc : (State.continueHost r s).rxCrc = s.rxCrc := rfl
@[simp] theorem State.continueHost_calcCrc : (State.continueHost r s).calcCrc = s.calcCrc := rfl
@[simp] theorem State.continueHost_mem : (State.continueHost r s).mem = s.mem := rfl
@[simp] theorem State.continueHost_pendingOp : (State.continueHost r s).pendingOp = s.pendingOp := rfl
@[simp] theorem State.continueHost_params : (State.continueHost r s).params = s.params := rfl
@[simp] theorem State.continueHost_epoch : (State.continueHost r s).epoch = s.epoch := rfl
@[simp] theorem State.continueHost_freeReads : (State.continueHost r s).freeReads = s.freeReads := rfl
@[simp] theorem State.continueHost_schedule : (State.continueHost r s).schedule = s.schedule := rfl
@[simp] theorem State.continueHost_host : (State.continueHost r s).host = { s.host with program := r } := rfl

end continueHost

section logAccess
variable (x : Transaction) (r : Response) (s : State)

@[simp] theorem State.logAccess_ie : (State.logAccess x r s).ie = s.ie := rfl
@[simp] theorem State.logAccess_cmdOp : (State.logAccess x r s).cmdOp = s.cmdOp := rfl
@[simp] theorem State.logAccess_busy : (State.logAccess x r s).busy = s.busy := rfl
@[simp] theorem State.logAccess_done : (State.logAccess x r s).done = s.done := rfl
@[simp] theorem State.logAccess_werr : (State.logAccess x r s).werr = s.werr := rfl
@[simp] theorem State.logAccess_result : (State.logAccess x r s).result = s.result := rfl
@[simp] theorem State.logAccess_dcause : (State.logAccess x r s).dcause = s.dcause := rfl
@[simp] theorem State.logAccess_inLen : (State.logAccess x r s).inLen = s.inLen := rfl
@[simp] theorem State.logAccess_outLen : (State.logAccess x r s).outLen = s.outLen := rfl
@[simp] theorem State.logAccess_func : (State.logAccess x r s).func = s.func := rfl
@[simp] theorem State.logAccess_dataLen : (State.logAccess x r s).dataLen = s.dataLen := rfl
@[simp] theorem State.logAccess_rxCrc : (State.logAccess x r s).rxCrc = s.rxCrc := rfl
@[simp] theorem State.logAccess_calcCrc : (State.logAccess x r s).calcCrc = s.calcCrc := rfl
@[simp] theorem State.logAccess_mem : (State.logAccess x r s).mem = s.mem := rfl
@[simp] theorem State.logAccess_pendingOp : (State.logAccess x r s).pendingOp = s.pendingOp := rfl
@[simp] theorem State.logAccess_params : (State.logAccess x r s).params = s.params := rfl
@[simp] theorem State.logAccess_epoch : (State.logAccess x r s).epoch = s.epoch := rfl
@[simp] theorem State.logAccess_freeReads : (State.logAccess x r s).freeReads = s.freeReads := rfl
@[simp] theorem State.logAccess_schedule : (State.logAccess x r s).schedule = s.schedule := rfl
@[simp] theorem State.logAccess_host : (State.logAccess x r s).host = { s.host with log := s.host.log ++ [(x, r)] } := rfl

end logAccess

section setVar
variable (x : Nat) (v : Word) (s : State)

@[simp] theorem State.setVar_ie : (State.setVar x v s).ie = s.ie := rfl
@[simp] theorem State.setVar_cmdOp : (State.setVar x v s).cmdOp = s.cmdOp := rfl
@[simp] theorem State.setVar_busy : (State.setVar x v s).busy = s.busy := rfl
@[simp] theorem State.setVar_done : (State.setVar x v s).done = s.done := rfl
@[simp] theorem State.setVar_werr : (State.setVar x v s).werr = s.werr := rfl
@[simp] theorem State.setVar_result : (State.setVar x v s).result = s.result := rfl
@[simp] theorem State.setVar_dcause : (State.setVar x v s).dcause = s.dcause := rfl
@[simp] theorem State.setVar_inLen : (State.setVar x v s).inLen = s.inLen := rfl
@[simp] theorem State.setVar_outLen : (State.setVar x v s).outLen = s.outLen := rfl
@[simp] theorem State.setVar_func : (State.setVar x v s).func = s.func := rfl
@[simp] theorem State.setVar_dataLen : (State.setVar x v s).dataLen = s.dataLen := rfl
@[simp] theorem State.setVar_rxCrc : (State.setVar x v s).rxCrc = s.rxCrc := rfl
@[simp] theorem State.setVar_calcCrc : (State.setVar x v s).calcCrc = s.calcCrc := rfl
@[simp] theorem State.setVar_mem : (State.setVar x v s).mem = s.mem := rfl
@[simp] theorem State.setVar_pendingOp : (State.setVar x v s).pendingOp = s.pendingOp := rfl
@[simp] theorem State.setVar_params : (State.setVar x v s).params = s.params := rfl
@[simp] theorem State.setVar_epoch : (State.setVar x v s).epoch = s.epoch := rfl
@[simp] theorem State.setVar_freeReads : (State.setVar x v s).freeReads = s.freeReads := rfl
@[simp] theorem State.setVar_schedule : (State.setVar x v s).schedule = s.schedule := rfl
@[simp] theorem State.setVar_host : (State.setVar x v s).host = { s.host with vars := storeCell s.host.vars x v } := rfl

end setVar

end Sys2Proof.Machine
end

