-- ==== Sys2Proof/Laws/Memory.lean ====
section
/-! SUPPORT. The laws of cells with strictly rising keys and of buffer bytes: a read after a write, what a write leaves
alone, and the canonical form, which every memory operation keeps. -/

namespace Sys2Proof.Machine

section cells
variable {α : Type}

/-- Every key is above `x`. -/
theorem lookupCell_eq_none_of_lt {m : List (Nat × α)} {x : Nat} (h : ∀ c ∈ m, x < c.1) : lookupCell m x = none := by
  induction m with
  | nil => rfl
  | cons c m ih =>
    have hc := h c (by simp)
    simp only [lookupCell, show ¬ c.1 = x by omega, if_false]
    exact ih fun d hd => h d (by simp [hd])

/-- What a lookup after a store gives: the stored value at its key, and what was there at every other key. -/
theorem lookupCell_storeCell (m : List (Nat × α)) (x y : Nat) (w : α) :
    lookupCell (storeCell m x w) y = if x = y then some w else lookupCell m y := by
  induction m with
  | nil => simp [storeCell, lookupCell]
  | cons c m ih =>
    obtain ⟨k, v⟩ := c
    by_cases h1 : x < k
    · simp [storeCell, lookupCell, h1]
    · by_cases h2 : x = k
      · subst h2
        simp only [storeCell, lookupCell, lt_irrefl, if_false, if_true]
        split <;> rfl
      · simp only [storeCell, lookupCell, h1, h2, if_false, ih]
        by_cases h3 : k = y
        · simp [h3, show ¬ x = y by omega]
        · simp [h3]

/-- The keys after a store: the stored key and those before. -/
theorem mem_storeCell {m : List (Nat × α)} {x : Nat} {w : α} {c : Nat × α} (h : c ∈ storeCell m x w) :
    c.1 = x ∨ c ∈ m := by
  induction m with
  | nil => simp_all [storeCell]
  | cons d m ih =>
    obtain ⟨k, v⟩ := d
    simp only [storeCell] at h
    split at h
    · rcases List.mem_cons.1 h with rfl | h <;> simp_all
    · split at h
      · rcases List.mem_cons.1 h with rfl | h <;> simp_all
      · rcases List.mem_cons.1 h with rfl | h
        · simp
        · rcases ih h with h | h <;> simp [h]

/-- A store keeps the keys strictly rising. -/
theorem storeCell_rising {m : List (Nat × α)} (x : Nat) (w : α) (h : m.Pairwise (fun c d => c.1 < d.1)) :
    (storeCell m x w).Pairwise (fun c d => c.1 < d.1) := by
  induction m with
  | nil => simp [storeCell]
  | cons c m ih =>
    obtain ⟨k, v⟩ := c
    obtain ⟨hk, hm⟩ := List.pairwise_cons.1 h
    simp only [storeCell]
    split
    · next hx =>
      refine List.pairwise_cons.2 ⟨fun d hd => ?_, h⟩
      rcases List.mem_cons.1 hd with rfl | hd
      · exact hx
      · exact lt_trans hx (hk d hd)
    · split
      · next hx => subst hx; exact List.pairwise_cons.2 ⟨hk, hm⟩
      · next h1 h2 =>
        refine List.pairwise_cons.2 ⟨fun d hd => ?_, ih hm⟩
        rcases mem_storeCell hd with hd | hd
        · rw [hd]; show k < x; omega
        · exact hk d hd

/-- Cells with strictly rising keys that agree at every key are equal: the form is canonical. -/
theorem cells_ext {m n : List (Nat × α)} (hm : m.Pairwise (fun c d => c.1 < d.1))
    (hn : n.Pairwise (fun c d => c.1 < d.1)) (h : ∀ x, lookupCell m x = lookupCell n x) : m = n := by
  induction m generalizing n with
  | nil =>
    cases n with
    | nil => rfl
    | cons d n => have := h d.1; simp [lookupCell] at this
  | cons c m ih =>
    obtain ⟨hcm, hm⟩ := List.pairwise_cons.1 hm
    cases n with
    | nil => have := h c.1; simp [lookupCell] at this
    | cons d n =>
      obtain ⟨hdn, hn'⟩ := List.pairwise_cons.1 hn
      have key : c.1 = d.1 := by
        rcases lt_trichotomy c.1 d.1 with hlt | heq | hlt
        · have := h c.1
          rw [lookupCell_eq_none_of_lt (m := d :: n)] at this
          · simp [lookupCell] at this
          · intro e he
            rcases List.mem_cons.1 he with rfl | he
            · exact hlt
            · exact lt_trans hlt (hdn e he)
        · exact heq
        · have := h d.1
          rw [lookupCell_eq_none_of_lt (m := c :: m)] at this
          · simp [lookupCell] at this
          · intro e he
            rcases List.mem_cons.1 he with rfl | he
            · exact hlt
            · exact lt_trans hlt (hcm e he)
      have val : c.2 = d.2 := by
        have := h c.1
        simpa [lookupCell, key] using this
      have hcd : c = d := Prod.ext key val
      subst hcd
      congr 1
      refine ih hm hn' fun x => ?_
      by_cases hx : c.1 = x
      · subst hx; rw [lookupCell_eq_none_of_lt hcm, lookupCell_eq_none_of_lt hdn]
      · simpa [lookupCell, hx] using h x

/-- What a lookup after consecutive stores gives. -/
theorem lookupCell_storeCells (m : List (Nat × α)) (base x : Nat) (ws : List α) :
    lookupCell (storeCells m base ws) x =
      if h : base ≤ x ∧ x - base < ws.length then some (ws[x - base]'h.2) else lookupCell m x := by
  induction ws generalizing m base with
  | nil => simp [storeCells]
  | cons w ws ih =>
    rw [storeCells, ih, lookupCell_storeCell]
    by_cases h1 : base = x
    · subst h1; simp
    · by_cases h2 : base ≤ x
      · obtain ⟨d, rfl⟩ : ∃ d, x = base + 1 + d := ⟨x - base - 1, by omega⟩
        have e1 : base + 1 + d - (base + 1) = d := by omega
        have e2 : base + 1 + d - base = d + 1 := by omega
        simp [e1, e2, show base ≠ base + 1 + d by omega, show base ≤ base + 1 + d by omega]
      · simp [h1, h2, show ¬ base + 1 ≤ x by omega]

/-- The keys after consecutive stores: the stored ones and those before. -/
theorem mem_storeCells {m : List (Nat × α)} {base : Nat} {ws : List α} {c : Nat × α}
    (h : c ∈ storeCells m base ws) : (base ≤ c.1 ∧ c.1 < base + ws.length) ∨ c ∈ m := by
  induction ws generalizing m base with
  | nil => exact .inr h
  | cons w ws ih =>
    rcases ih h with ⟨h1, h2⟩ | h
    · left; simp only [List.length_cons]; omega
    · rcases mem_storeCell h with h | h
      · left; simp only [List.length_cons]; omega
      · exact .inr h

/-- Consecutive stores keep the keys strictly rising. -/
theorem storeCells_rising {m : List (Nat × α)} (base : Nat) (ws : List α)
    (h : m.Pairwise (fun c d => c.1 < d.1)) : (storeCells m base ws).Pairwise (fun c d => c.1 < d.1) := by
  induction ws generalizing m base with
  | nil => exact h
  | cons w ws ih => exact ih _ (storeCell_rising _ _ h)

end cells

/-- Every memory operation keeps the canonical form. -/
theorem setBytes_wf {s : State} (a : Nat) (bs : List Byte) (h : Memory.wf s.mem) : Memory.wf (s.setBytes a bs).mem :=
  storeCells_rising a bs h

/-- The memory of the reset state is canonical. -/
theorem reset_wf : Memory.wf State.reset.mem := List.Pairwise.nil

/-- A byte is read from the memory and the reset count alone. -/
theorem byteAt_congr {s t : State} (hm : t.mem = s.mem) (he : t.epoch = s.epoch) (a : Nat) : t.byteAt a = s.byteAt a := by
  simp [State.byteAt, hm, he]

/-- A byte read after consecutive writes: the written byte inside them, the byte before outside them. -/
theorem byteAt_setBytes (s : State) (base a : Nat) (bs : List Byte) :
    (s.setBytes base bs).byteAt a =
      if h : base ≤ a ∧ a - base < bs.length then bs[a - base]'h.2 else s.byteAt a := by
  simp only [State.byteAt, State.setBytes_mem, State.setBytes_epoch, lookupCell_storeCells]
  split <;> rfl

/-- A byte outside consecutive writes reads as before. -/
theorem byteAt_setBytes_outside {s : State} {base a : Nat} {bs : List Byte} (h : a < base ∨ base + bs.length ≤ a) :
    (s.setBytes base bs).byteAt a = s.byteAt a := by
  rw [byteAt_setBytes, dif_neg (by omega)]

/-- A byte inside consecutive writes reads as written. -/
theorem byteAt_setBytes_inside {s : State} {base k : Nat} {bs : List Byte} (h : k < bs.length) :
    (s.setBytes base bs).byteAt (base + k) = bs[k] := by
  rw [byteAt_setBytes, dif_pos (by omega)]
  simp

@[simp] theorem bytesFrom_length (s : State) (base n : Nat) : (s.bytesFrom base n).length = n := by
  simp [State.bytesFrom]

@[simp] theorem bytesFrom_getElem (s : State) (base n k : Nat) (h : k < (s.bytesFrom base n).length) :
    (s.bytesFrom base n)[k] = s.byteAt (base + k) := by
  simp [State.bytesFrom]

/-- Equal bytes make equal sequences. -/
theorem bytesFrom_congr {s t : State} {b c n : Nat} (h : ∀ k < n, t.byteAt (c + k) = s.byteAt (b + k)) :
    t.bytesFrom c n = s.bytesFrom b n :=
  List.map_congr_left fun k hk => h k (List.mem_range.1 hk)

end Sys2Proof.Machine
end

