-- ==== Sys2Proof/Laws/Commands.lean ====
section
/-! SUPPORT. What each shared operation of the commands can do, said once: the reads of a byte after each named update,
and one inversion lemma per command. -/

namespace Sys2Proof.Machine

section byteAt
variable (s : State) (a : Nat)

@[simp] theorem byteAt_issue (op : Byte) : (State.issue op s).byteAt a = s.byteAt a := rfl
@[simp] theorem byteAt_complete (c : ResultCode) (d : BitVec 4) : (State.complete c d s).byteAt a = s.byteAt a := rfl
@[simp] theorem byteAt_refuseWrite : s.refuseWrite.byteAt a = s.byteAt a := rfl
@[simp] theorem byteAt_stageChecksums : s.stageChecksums.byteAt a = s.byteAt a := rfl
@[simp] theorem byteAt_writeStatus (v : Word) : (State.writeStatus v s).byteAt a = s.byteAt a := rfl
@[simp] theorem byteAt_dropTurn : s.dropTurn.byteAt a = s.byteAt a := rfl
@[simp] theorem byteAt_endHost (w : HostStatus) : (State.endHost w s).byteAt a = s.byteAt a := rfl
@[simp] theorem byteAt_continueHost (r : List HostStmt) : (State.continueHost r s).byteAt a = s.byteAt a := rfl
@[simp] theorem byteAt_logAccess (x : Transaction) (r : Response) : (State.logAccess x r s).byteAt a = s.byteAt a := rfl
@[simp] theorem byteAt_setVar (x : Nat) (v : Word) : (State.setVar x v s).byteAt a = s.byteAt a := rfl

@[simp] theorem byteAt_stageFrame :
    s.stageFrame.byteAt a = (s.setBytes Config.dataBase s.wirePayload).byteAt a := rfl

@[simp] theorem byteAt_stageWire :
    s.stageWire.byteAt a = (s.setBytes Config.outBase s.frame.wire).byteAt a := rfl

end byteAt

section stageChecksums
variable (s : State)

@[simp] theorem len_stageChecksums : s.stageChecksums.len = s.len := rfl
@[simp] theorem inByte_stageChecksums (k : Nat) : s.stageChecksums.inByte k = s.inByte k := rfl
@[simp] theorem wirePayload_stageChecksums : s.stageChecksums.wirePayload = s.wirePayload := rfl

end stageChecksums

@[simp] theorem wirePayload_length (s : State) : s.wirePayload.length = s.len - 7 := bytesFrom_length ..

@[simp] theorem wireCovered_length (s : State) : s.wireCovered.length = s.len - 6 := bytesFrom_length ..

@[simp] theorem frame_data_length (s : State) : s.frame.data.length = s.dataLen.toNat := bytesFrom_length ..

/-- A wire frame is 7 bytes longer than its payload (R94). -/
@[simp] theorem wire_length (f : Frame) : f.wire.length = f.data.length + 7 := by
  simp [Frame.wire, Frame.covered]

/-- What DECODE can do (R160): one of its four outcomes, each under its own condition. -/
theorem execDecode_cases {s t : State} (h : execDecode s = .next t) :
    (s.len < 7 ∧ t = s.complete .frameTooShort 0) ∨
    (7 ≤ s.len ∧ s.wireCause ≠ 0 ∧ t = s.complete .delimiterError s.wireCause) ∨
    (7 ≤ s.len ∧ s.wireCause = 0 ∧ s.wireChecksum ≠ crc16 s.wireCovered ∧
      t = s.stageChecksums.complete .checksumMismatch 0) ∨
    (7 ≤ s.len ∧ s.wireCause = 0 ∧ s.wireChecksum = crc16 s.wireCovered ∧
      t = s.stageChecksums.stageFrame.complete .ok 0) := by
  unfold execDecode at h
  split at h
  · next h1 => injection h with h; exact .inl ⟨h1, h.symm⟩
  · next h1 =>
    have h1 : 7 ≤ s.len := Nat.le_of_not_lt h1
    split at h
    · next h2 => injection h with h; exact .inr (.inl ⟨h1, h2, h.symm⟩)
    · next h2 =>
      split at h
      · next h3 => injection h with h; exact .inr (.inr (.inl ⟨h1, by simpa using h2, h3, h.symm⟩))
      · next h3 =>
        injection h with h
        exact .inr (.inr (.inr ⟨h1, by simpa using h2, by simpa using h3, h.symm⟩))

/-- DECODE's outcome below the minimum length (R161). -/
theorem execDecode_short {s : State} (h : s.len < 7) : execDecode s = .next (s.complete .frameTooShort 0) :=
  if_pos h

/-- DECODE's outcome when a delimiter condition holds (R162). -/
theorem execDecode_delimiter {s : State} (h : 7 ≤ s.len) (hc : s.wireCause ≠ 0) :
    execDecode s = .next (s.complete .delimiterError s.wireCause) :=
  (if_neg (Nat.not_lt.2 h)).trans (if_pos hc)

/-- DECODE's outcome when only the checksums differ (R166). -/
theorem execDecode_mismatch {s : State} (h : 7 ≤ s.len) (hc : s.wireCause = 0)
    (hk : s.wireChecksum ≠ crc16 s.wireCovered) :
    execDecode s = .next (s.stageChecksums.complete .checksumMismatch 0) :=
  (if_neg (Nat.not_lt.2 h)).trans ((if_neg (not_not.2 hc)).trans (if_pos hk))

/-- DECODE's outcome when every check passes (R167). -/
theorem execDecode_ok {s : State} (h : 7 ≤ s.len) (hc : s.wireCause = 0)
    (hk : s.wireChecksum = crc16 s.wireCovered) :
    execDecode s = .next (s.stageChecksums.stageFrame.complete .ok 0) :=
  (if_neg (Nat.not_lt.2 h)).trans ((if_neg (not_not.2 hc)).trans (if_neg (not_not.2 hk)))

/-- No command stops: each answers a next state (R210). -/
theorem exec_next (i : Instr) (s : State) : ∃ t, exec i s = .next t := by
  cases i
  case decode =>
    by_cases h : s.len < 7
    · exact ⟨_, execDecode_short h⟩
    · have h := Nat.le_of_not_lt h
      by_cases hc : s.wireCause = 0
      · by_cases hk : s.wireChecksum = crc16 s.wireCovered
        · exact ⟨_, execDecode_ok h hc hk⟩
        · exact ⟨_, execDecode_mismatch h hc hk⟩
      · exact ⟨_, execDecode_delimiter h hc⟩
  all_goals exact ⟨_, rfl⟩

/-- Two bytes are a mask failure or not: all four delimiter conditions are read from DCAUSE (R30, R162). -/
theorem delimiterCause_bits (a b c d : Byte) :
    (delimiterCause a b c d).getLsbD 0 = maskFails a Config.startByte ∧ (delimiterCause a b c d).getLsbD 1 = (b != a) ∧
    (delimiterCause a b c d).getLsbD 2 = maskFails c Config.endByte ∧ (delimiterCause a b c d).getLsbD 3 = (d != c) := by
  generalize hw : maskFails a Config.startByte = w
  generalize hx : (b != a) = x
  generalize hy : maskFails c Config.endByte = y
  generalize hz : (d != c) = z
  simp only [delimiterCause, hw, hx, hy, hz]
  clear hw hx hy hz
  revert w x y z
  decide

/-- DCAUSE is 0 exactly when none of the four conditions holds (R30). -/
theorem delimiterCause_eq_zero (a b c d : Byte) :
    delimiterCause a b c d = 0 ↔
      maskFails a Config.startByte = false ∧ (b != a) = false ∧ maskFails c Config.endByte = false ∧ (d != c) = false := by
  generalize hw : maskFails a Config.startByte = w
  generalize hx : (b != a) = x
  generalize hy : maskFails c Config.endByte = y
  generalize hz : (d != c) = z
  simp only [delimiterCause, hw, hx, hy, hz]
  clear hw hx hy hz
  revert w x y z
  decide

/-- What an ILLEGAL command can do (R127), whatever its opcode. -/
theorem exec_illegal {i : Instr} (hi : 4 ≤ i.rowIndex) (s : State) :
    exec i s = .next (s.complete .illegalCommand 0) := by
  cases i <;> first | rfl | (simp [Instr.rowIndex] at hi)

/-- What any command can do: stage the results of one of the commands, then complete (R122). -/
theorem exec_cases {i : Instr} {s t : State} (h : exec i s = .next t) :
    (i = .nop ∧ t = s.complete .ok 0) ∨
    (i = .decode ∧ execDecode s = .next t) ∨
    (i = .encode ∧ t = s.stageWire.complete .ok 0) ∨
    (i = .crc ∧ t = State.complete .ok 0 { s with calcCrc := crc16 (s.inBytes 0 s.len) }) ∨
    (4 ≤ i.rowIndex ∧ t = s.complete .illegalCommand 0) := by
  cases i with
  | nop => injection h with h; exact .inl ⟨rfl, h.symm⟩
  | decode => exact .inr (.inl ⟨rfl, h⟩)
  | encode => injection h with h; exact .inr (.inr (.inl ⟨rfl, h.symm⟩))
  | crc => injection h with h; exact .inr (.inr (.inr (.inl ⟨rfl, h.symm⟩)))
  | _ =>
    injection h with h
    exact .inr (.inr (.inr (.inr ⟨by simp [Instr.rowIndex], h.symm⟩)))

/-- A completion is the last thing every command does: what none of them touches is as before (R122). -/
theorem exec_untouched {i : Instr} {s t : State} (h : exec i s = .next t) :
    t.ie = s.ie ∧ t.cmdOp = s.cmdOp ∧ t.werr = s.werr ∧ t.inLen = s.inLen ∧ t.params = s.params ∧
    t.epoch = s.epoch ∧ t.freeReads = s.freeReads ∧ t.schedule = s.schedule ∧ t.host = s.host ∧
    t.busy = false ∧ t.done = true ∧ t.pendingOp = none := by
  rcases exec_cases h with ⟨-, rfl⟩ | ⟨-, h⟩ | ⟨-, rfl⟩ | ⟨-, rfl⟩ | ⟨-, rfl⟩
  · simp
  · rcases execDecode_cases h with ⟨-, rfl⟩ | ⟨-, -, rfl⟩ | ⟨-, -, -, rfl⟩ | ⟨-, -, -, rfl⟩ <;> simp
  · simp
  · simp
  · simp

end Sys2Proof.Machine
end

