-- ==== Sys2Proof/Laws/Bus.lean ====
section
/-! SUPPORT. What the host bus and the HOST agent can do, said once: where an access goes, and what a read, a write and
a host turn can change. -/

namespace Sys2Proof.Machine

/-- The register at an offset has that offset. -/
theorem regAt_offset {a : Nat} {r : Reg} (h : regAt a = some r) : regOffset r = a := by
  simpa using List.find?_some h

@[simp] theorem regAt_regOffset (r : Reg) : regAt (regOffset r) = some r := by cases r <;> rfl

theorem windowAt_cases {p : Params} {a n : Nat} {x : Target} (h : windowAt p a n = some x) :
    ∃ w k, x = .window w k ∧ a = windowAddr w k ∧ k + n ≤ windowCapacity p w := by
  simp only [windowAt, inWindow, decide_eq_true_eq] at h
  split at h
  · next hw => injection h with h; refine ⟨_, _, h.symm, ?_⟩; simp only [windowAddr, windowBase] at *; omega
  · split at h
    · next hw => injection h with h; refine ⟨_, _, h.symm, ?_⟩; simp only [windowAddr, windowBase] at *; omega
    · split at h
      · next hw => injection h with h; refine ⟨_, _, h.symm, ?_⟩; simp only [windowAddr, windowBase] at *; omega
      · cases h

/-- Where an access without a bus error goes (R61 to R65): a whole register, or bytes that lie inside a buffer. -/
theorem resolve_cases {p : Params} {a n : Nat} {x : Target} (h : resolve p a n = some x) :
    (n = 1 ∨ n = 2 ∨ n = 4) ∧ a % n = 0 ∧
    ((∃ r, x = .reg r ∧ n = 4 ∧ regOffset r = a) ∨
     (∃ w k, x = .window w k ∧ a = windowAddr w k ∧ k + n ≤ windowCapacity p w)) := by
  simp only [resolve] at h
  split at h
  · cases h
  · next h0 =>
    rw [not_or, not_not, not_not] at h0
    refine ⟨h0.1, h0.2, ?_⟩
    split at h
    · cases h
    · split at h
      · split at h
        · next hn =>
          obtain ⟨r, hr, rfl⟩ := Option.map_eq_some_iff.1 h
          exact .inl ⟨r, rfl, hn, regAt_offset hr⟩
        · cases h
      · exact .inr (windowAt_cases h)

/-- A 4-byte access at a register's offset goes to the register (R63). -/
theorem resolve_regOffset (p : Params) (r : Reg) : resolve p (regOffset r) 4 = some (.reg r) := by
  cases r <;> rfl

theorem inWindow_iff (p : Params) (w : Window) (a n : Nat) :
    inWindow p w a n = true ↔ windowBase w ≤ a ∧ a + n ≤ windowBase w + windowCapacity p w := by
  simp [inWindow]

theorem windowAt_windowAddr {p : Params} {w : Window} {k n : Nat} (hn : 0 < n) (hk : k + n ≤ windowCapacity p w) :
    windowAt p (windowAddr w k) n = some (.window w k) := by
  have hm := p.maxData.isLt
  have e1 : inWindow p .input (windowAddr w k) n = decide (w = .input) := by
    rw [Bool.eq_iff_iff, inWindow_iff, decide_eq_true_iff]
    cases w <;>
      simp only [windowAddr, windowBase, windowCapacity, Params.bufBytes, Config.inBase, Config.outBase, Config.dataBase,
        reduceCtorEq, iff_true, iff_false] at hk ⊢ <;> omega
  have e2 : inWindow p .output (windowAddr w k) n = decide (w = .output) := by
    rw [Bool.eq_iff_iff, inWindow_iff, decide_eq_true_iff]
    cases w <;>
      simp only [windowAddr, windowBase, windowCapacity, Params.bufBytes, Config.inBase, Config.outBase, Config.dataBase,
        reduceCtorEq, iff_true, iff_false] at hk ⊢ <;> omega
  have e3 : inWindow p .data (windowAddr w k) n = decide (w = .data) := by
    rw [Bool.eq_iff_iff, inWindow_iff, decide_eq_true_iff]
    cases w <;>
      simp only [windowAddr, windowBase, windowCapacity, Params.bufBytes, Config.inBase, Config.outBase, Config.dataBase,
        reduceCtorEq, iff_true, iff_false] at hk ⊢ <;> omega
  unfold windowAt
  rw [e1, e2, e3]
  cases w <;> simp [windowAddr, windowBase]

/-- An aligned access of 1, 2 or 4 bytes that lie inside a buffer goes to that buffer (R64, R65). -/
theorem resolve_windowAddr {p : Params} {w : Window} {k n : Nat} (hn : n = 1 ∨ n = 2 ∨ n = 4)
    (ha : windowAddr w k % n = 0) (hk : k + n ≤ windowCapacity p w) :
    resolve p (windowAddr w k) n = some (.window w k) := by
  have hm := p.maxData.isLt
  have hb : windowCapacity p w ≤ 0x1000 := by cases w <;> simp only [windowCapacity, Params.bufBytes] <;> omega
  have hlo : ¬windowAddr w k < Config.inBase := by
    cases w <;> simp only [windowAddr, windowBase, Config.inBase, Config.outBase, Config.dataBase] <;> omega
  have hhi : ¬Config.lastOffset < windowAddr w k + n - 1 := by
    cases w <;>
      simp only [windowAddr, windowBase, Config.lastOffset, Config.inBase, Config.outBase, Config.dataBase] <;> omega
  unfold resolve
  rw [if_neg (by rw [not_or, not_not, not_not]; exact ⟨hn, ha⟩), if_neg hhi, if_neg hlo]
  exact windowAt_windowAddr (by omega) hk

@[simp] theorem valueBytes_length (n : Nat) (v : Word) : (valueBytes n v).length = n := by
  induction n generalizing v with
  | zero => rfl
  | succ n ih => simp [valueBytes, ih]

/-- What a host read can do to the state (R69): nothing, or use up a free value. -/
theorem memRead_state (a : Offset) (n : Nat) (s : State) :
    (memRead a n s).2 = s ∨ (memRead a n s).2 = { s with freeReads := s.freeReads + 1 } := by
  unfold memRead
  split
  · exact .inl rfl
  · split
    · exact .inr rfl
    · exact .inl rfl
  · split
    · exact .inr rfl
    · exact .inl rfl

/-- What a host read answers: data, or a bus error where the offset has no target (R66). -/
theorem memRead_response (a : Offset) (n : Nat) (s : State) :
    ((∃ v, (memRead a n s).1 = .data v) ∧ ∃ x, resolve s.params a.toNat n = some x) ∨
    (memRead a n s = (.busError, s) ∧ resolve s.params a.toNat n = none) := by
  unfold memRead
  split
  · next h => exact .inr ⟨rfl, h⟩
  · next h => split <;> exact .inl ⟨⟨_, rfl⟩, _, h⟩
  · next h => split <;> exact .inl ⟨⟨_, rfl⟩, _, h⟩

/-- What a protected write can do (R67): be refused while BUSY = 1, or store. -/
theorem guarded_cases (s : State) (f : State → State) :
    (s.busy = true ∧ s.guarded f = s.refuseWrite) ∨ (s.busy = false ∧ s.guarded f = f s) := by
  unfold State.guarded
  cases s.busy <;> simp

/-- What a host write can do to the state (R67, R70): nothing; set CTRL.IE; clear status bits; set WERR; or, while
BUSY = 0, issue a command, store a register operand or store bytes in IN or DATA. -/
theorem memWrite_cases (a : Offset) (n : Nat) (v : Word) (s : State) :
    (memWrite a n v s).2 = s ∨
    (memWrite a n v s).2 = { s with ie := v.getLsbD 0 } ∨
    (a = 0x00C ∧ n = 4 ∧ (memWrite a n v s).2 = s.writeStatus v) ∨
    (memWrite a n v s).2 = s.refuseWrite ∨
    (s.busy = false ∧
      ((memWrite a n v s).2 = State.issue (opField v) s ∨
       ((lengthField v).toNat ≤ s.params.bufBytes ∧ (memWrite a n v s).2 = { s with inLen := lengthField v }) ∨
       (memWrite a n v s).2 = { s with func := v.setWidth 8 } ∨
       ((lengthField v).toNat ≤ s.params.maxData.val ∧ (memWrite a n v s).2 = { s with dataLen := lengthField v }) ∨
       (∃ w k, w ≠ .output ∧ k + n ≤ windowCapacity s.params w ∧
         (memWrite a n v s).2 = s.setBytes (windowAddr w k) (valueBytes n v)))) := by
  unfold memWrite
  split
  · exact .inl rfl
  · next r hr =>
    obtain ⟨-, -, ⟨r', h, hn, ha⟩ | ⟨w, k, h, -⟩⟩ := resolve_cases hr
    · injection h with h
      subst h
      have haddr : a = BitVec.ofNat 16 (regOffset r) := by rw [ha]; simp
      cases r with
      | ctrl => exact .inr (.inl rfl)
      | status => exact .inr (.inr (.inl ⟨haddr, hn, rfl⟩))
      | cmd =>
        rcases guarded_cases s (State.issue (opField v)) with ⟨-, e⟩ | ⟨hb, e⟩
        · exact .inr (.inr (.inr (.inl e)))
        · exact .inr (.inr (.inr (.inr ⟨hb, .inl e⟩)))
      | inLen =>
        rcases guarded_cases s (State.writeInLen v) with ⟨-, e⟩ | ⟨hb, e⟩
        · exact .inr (.inr (.inr (.inl e)))
        · simp only [State.writeReg, e, State.writeInLen]
          split
          · exact .inr (.inr (.inr (.inl rfl)))
          · next h => exact .inr (.inr (.inr (.inr ⟨hb, .inr (.inl ⟨by omega, rfl⟩)⟩)))
      | func =>
        rcases guarded_cases s (fun t => { t with func := v.setWidth 8 }) with ⟨-, e⟩ | ⟨hb, e⟩
        · exact .inr (.inr (.inr (.inl e)))
        · exact .inr (.inr (.inr (.inr ⟨hb, .inr (.inr (.inl e))⟩)))
      | dataLen =>
        rcases guarded_cases s (State.writeDataLen v) with ⟨-, e⟩ | ⟨hb, e⟩
        · exact .inr (.inr (.inr (.inl e)))
        · simp only [State.writeReg, e, State.writeDataLen]
          split
          · exact .inr (.inr (.inr (.inl rfl)))
          · next h => exact .inr (.inr (.inr (.inr ⟨hb, .inr (.inr (.inr (.inl ⟨by omega, rfl⟩)))⟩)))
      | _ => exact .inl rfl
    · cases h
  · next w k hr =>
    obtain ⟨-, -, ⟨r', h, -⟩ | ⟨w', k', h, -, hc⟩⟩ := resolve_cases hr
    · cases h
    · injection h with hw hk
      subst hw hk
      cases w with
      | output => exact .inl rfl
      | input =>
        rcases guarded_cases s (fun t => t.setBytes (windowAddr .input k) (valueBytes n v)) with ⟨-, e⟩ | ⟨hb, e⟩
        · exact .inr (.inr (.inr (.inl e)))
        · exact .inr (.inr (.inr (.inr ⟨hb, .inr (.inr (.inr (.inr ⟨_, k, by simp, hc, e⟩)))⟩)))
      | data =>
        rcases guarded_cases s (fun t => t.setBytes (windowAddr .data k) (valueBytes n v)) with ⟨-, e⟩ | ⟨hb, e⟩
        · exact .inr (.inr (.inr (.inl e)))
        · exact .inr (.inr (.inr (.inr ⟨hb, .inr (.inr (.inr (.inr ⟨_, k, by simp, hc, e⟩)))⟩)))

/-- A host write's response says only whether there was a bus error, which leaves the state as it was (R62). -/
theorem memWrite_response (a : Offset) (n : Nat) (v : Word) (s : State) :
    ((memWrite a n v s).1 = .accepted ∧ ∃ x, resolve s.params a.toNat n = some x) ∨
    (memWrite a n v s = (.busError, s) ∧ resolve s.params a.toNat n = none) := by
  unfold memWrite
  split
  · next h => exact .inr ⟨rfl, h⟩
  · next h => exact .inl ⟨rfl, _, h⟩
  · next h => exact .inl ⟨rfl, _, h⟩

/-- No host read touches the HOST agent's own state (R69). -/
@[simp] theorem memRead_host (a : Offset) (n : Nat) (s : State) : (memRead a n s).2.host = s.host := by
  rcases memRead_state a n s with h | h <;> rw [h]

/-- No host write touches the HOST agent's own state (R67). -/
@[simp] theorem memWrite_host (a : Offset) (n : Nat) (v : Word) (s : State) : (memWrite a n v s).2.host = s.host := by
  rcases memWrite_cases a n v s with
    h | h | ⟨-, -, h⟩ | h | ⟨-, h | ⟨-, h⟩ | h | ⟨-, h⟩ | ⟨_, _, -, -, h⟩⟩ <;> rw [h] <;> rfl

/-- While a command runs, a window is unspecified to host reads exactly when the command's write set holds it (R76). -/
theorem windowUnstable_busy {s : State} {op : Byte} (hb : s.busy = true) (hp : s.pendingOp = some op) (w : Window) :
    s.windowUnstable w = writesWindow (decodeOp op) w := by
  simp [State.windowUnstable, State.running, hb, hp]

/-- While a command runs, a register is unspecified to host reads exactly when the command's write set holds it (R76). -/
theorem regUnstable_busy {s : State} {op : Byte} (hb : s.busy = true) (hp : s.pendingOp = some op) (r : Reg) :
    s.regUnstable r = writesReg (decodeOp op) r := by
  simp [State.regUnstable, State.running, hb, hp]

/-- What a host turn can do: only the host's own state changes after at most one bus access (R20, R100). -/
theorem hostTurn_cases (s : State) :
    (∃ h, hostTurn s = { s with host := h }) ∨
    (∃ n a v w rest h, s.host.program = .wr n a v :: rest ∧ s.host.value v = some w ∧
      hostTurn s = { (memWrite a n w s).2 with host := h }) ∨
    (∃ n a h, hostTurn s = { (memRead a n s).2 with host := h }) := by
  unfold hostTurn
  split
  · next stmt rest _ hp =>
    cases stmt with
    | wr n a v =>
      simp only [hostStatement, hostWrite]
      cases hv : s.host.value v with
      | none => exact .inl ⟨_, rfl⟩
      | some w =>
        refine .inr (.inl ⟨n, a, v, w, rest, ?_⟩)
        rcases memWrite_response a n w s with ⟨h1, -⟩ | ⟨h1, -⟩
        · obtain ⟨r, t, e⟩ : ∃ r t, memWrite a n w s = (r, t) := ⟨_, _, rfl⟩
          simp only [e] at h1 ⊢
          subst h1
          exact ⟨_, hp, hv, rfl⟩
        · simp only [h1]
          exact ⟨_, hp, hv, rfl⟩
    | rd n a x =>
      simp only [hostStatement, hostRead]
      refine .inr (.inr ⟨n, a, ?_⟩)
      split <;> next e => simp only [e]; exact ⟨_, rfl⟩
    | poll a m v =>
      simp only [hostStatement, hostPoll]
      split
      · split
        · next e =>
          refine .inr (.inr ⟨4, a, ?_⟩)
          simp only [e]
          split <;> exact ⟨_, rfl⟩
        · next e => exact .inr (.inr ⟨4, a, by simp only [e]; exact ⟨_, rfl⟩⟩)
      · exact .inl ⟨_, rfl⟩
    | expect x v =>
      simp only [hostStatement, hostExpect]
      split
      · split <;> exact .inl ⟨_, rfl⟩
      · exact .inl ⟨_, rfl⟩
  · exact .inl ⟨s.host, rfl⟩

/-- What a step can do: the turn of one agent (R20). -/
theorem step_cases {s t : State} (h : step s = .next t) :
    (s.nextTurn = .host ∧ t = hostTurn s.dropTurn) ∨
    (s.nextTurn = .reset ∧ t = s.dropTurn.resetBlock) ∨
    (s.nextTurn = .engine ∧ s.busy = false ∧ t = s.dropTurn) ∨
    (s.nextTurn = .engine ∧ s.busy = true ∧ ∃ op, s.pendingOp = some op ∧ exec (decodeOp op) s.dropTurn = .next t) := by
  unfold step takeTurn at h
  split at h
  · next e => injection h with h; exact .inl ⟨e, h.symm⟩
  · next e =>
    unfold engineTurn at h
    split at h
    · next hb =>
      split at h
      · next op ho => exact .inr (.inr (.inr ⟨e, hb, op, ho, h⟩))
      · cases h
    · next hb => injection h with h; exact .inr (.inr (.inl ⟨e, by simpa using hb, h.symm⟩))
  · next e => injection h with h; exact .inr (.inl ⟨e, h.symm⟩)

end Sys2Proof.Machine
end

