-- ==== Sys2Proof/Laws/Words.lean ====
section
/-! SUPPORT. The laws of command words: their bytes, their field OP, and what the decoder answers. -/

namespace Sys2Proof

/-- OP is the byte at the lowest address (R64, R90). -/
@[simp] theorem opField_wordOfBytes (b0 b1 b2 b3 : Byte) : opField (wordOfBytes b0 b1 b2 b3) = b0 := by
  simp only [opField, wordOfBytes]
  ext i hi
  simp only [BitVec.getElem_setWidth, BitVec.getLsbD_or, BitVec.getLsbD_shiftLeft, BitVec.getLsbD_setWidth]
  simp [hi, show i < 32 by omega, show i < 16 by omega, show i < 24 by omega]

/-- The word of a command has the command's opcode in OP (R90). -/
@[simp] theorem opField_encodeWord (i : Instr) : opField (encodeWord i) = i.opcode := by
  simp [opField, encodeWord]

/-- A word's bytes make the word again. -/
theorem wordOfBytes_bytesOfWord (w : Word) :
    wordOfBytes (w.setWidth 8) ((w >>> 8).setWidth 8) ((w >>> 16).setWidth 8) ((w >>> 24).setWidth 8) = w := by
  ext i hi
  interval_cases i <;> simp [wordOfBytes]

/-- Decoding a word's bytes is decoding the word. -/
theorem decode_bytesOfWord (w : Word) (rest : List Byte) :
    decode (bytesOfWord w ++ rest) = .ok (decodeWord w, rest) := by
  simp only [bytesOfWord, List.cons_append, List.nil_append, decode, wordOfBytes_bytesOfWord]

/-- The decoder of the table's words answers on every word. -/
theorem decodeTableWord_eq (nbits w : Nat) : decodeTableWord nbits w = some (decodeWord (tableWord nbits w)) := by
  have h := decode_bytesOfWord (tableWord nbits w) []
  rw [List.append_nil] at h
  simp only [decodeTableWord, h]

end Sys2Proof
end

