-- ==== Sys2Proof/Laws/PerInstr.lean ====
section
/-! SUPPORT. Statements about every command as syntax, one lemma per constructor of `Instr`. -/

namespace Sys2Proof.Laws.EncodedWordInRow

/-- The word of a well-formed command selects the command's own row of spec/opcode_table.json (R90). -/
def Statement (i : Instr) : Prop :=
  i.wellFormed = true → ∃ r, opcodeTable[i.rowIndex]? = some r ∧ r.selects (encodeWord i) = true

theorem nop : Statement .nop := fun _ => ⟨_, rfl, by decide⟩
theorem decode : Statement .decode := fun _ => ⟨_, rfl, by decide⟩
theorem encode : Statement .encode := fun _ => ⟨_, rfl, by decide⟩
theorem crc : Statement .crc := fun _ => ⟨_, rfl, by decide⟩

/-- A mask and a match within the field OP are the same on the byte and on its word. -/
theorem selects_setWidth (name : String) (op mask pattern : Byte) (h : (op &&& mask == pattern) = true) :
    (Row.mk name (pattern.setWidth 32) (mask.setWidth 32)).selects (op.setWidth 32) = true := by
  simp only [Row.selects, beq_iff_eq] at h ⊢
  rw [← h]
  ext i hi
  simp

theorem illegal04 (op : Byte) : Statement (.illegal04 op) := fun h => ⟨_, rfl, selects_setWidth _ op _ _ h⟩
theorem illegal08 (op : Byte) : Statement (.illegal08 op) := fun h => ⟨_, rfl, selects_setWidth _ op _ _ h⟩
theorem illegal10 (op : Byte) : Statement (.illegal10 op) := fun h => ⟨_, rfl, selects_setWidth _ op _ _ h⟩
theorem illegal20 (op : Byte) : Statement (.illegal20 op) := fun h => ⟨_, rfl, selects_setWidth _ op _ _ h⟩
theorem illegal40 (op : Byte) : Statement (.illegal40 op) := fun h => ⟨_, rfl, selects_setWidth _ op _ _ h⟩
theorem illegal80 (op : Byte) : Statement (.illegal80 op) := fun h => ⟨_, rfl, selects_setWidth _ op _ _ h⟩

end Sys2Proof.Laws.EncodedWordInRow
end

