-- ==== Sys2Proof/Tests/Slice0.lean ====
section
/-! SUPPORT. Tests: the checks of WellFormed, words decoded by hand, the spec's own test vectors (95_test_vectors.md), and
for each obligation with hypotheses a witness, one or more concrete states that meet them together. -/

namespace Sys2Proof.Tests

open Sys2Proof.Machine

/-! ## WellFormed: an ill-formed term for each check -/

theorem test_illegal04_refuses_08 : Instr.wellFormed (.illegal04 0x08) = false := by decide
theorem test_illegal08_refuses_10 : Instr.wellFormed (.illegal08 0x10) = false := by decide
theorem test_illegal10_refuses_20 : Instr.wellFormed (.illegal10 0x20) = false := by decide
theorem test_illegal20_refuses_1F : Instr.wellFormed (.illegal20 0x1F) = false := by decide
theorem test_illegal40_refuses_80 : Instr.wellFormed (.illegal40 0x80) = false := by decide
theorem test_illegal80_refuses_7F : Instr.wellFormed (.illegal80 0x7F) = false := by decide

/-! ## Decode: one word of each row, its four bytes written out from R90 to R92, OP lowest -/

theorem test_decode_nop : decode [0x00, 0x00, 0x00, 0x00] = .ok (.nop, []) := rfl
theorem test_decode_decode : decode [0x01, 0x00, 0x00, 0x00] = .ok (.decode, []) := rfl
theorem test_decode_encode : decode [0x02, 0x00, 0x00, 0x00] = .ok (.encode, []) := rfl
theorem test_decode_crc : decode [0x03, 0x00, 0x00, 0x00] = .ok (.crc, []) := rfl
theorem test_decode_illegal04 : decode [0x04, 0x00, 0x00, 0x00] = .ok (.illegal04 0x04, []) := rfl
theorem test_decode_illegal08 : decode [0x0B, 0x00, 0x00, 0x00] = .ok (.illegal08 0x0B, []) := rfl
theorem test_decode_illegal10 : decode [0x15, 0x00, 0x00, 0x00] = .ok (.illegal10 0x15, []) := rfl
theorem test_decode_illegal20 : decode [0x2A, 0x00, 0x00, 0x00] = .ok (.illegal20 0x2A, []) := rfl
theorem test_decode_illegal40 : decode [0x7E, 0x00, 0x00, 0x00] = .ok (.illegal40 0x7E, []) := rfl
theorem test_decode_illegal80 : decode [0xFF, 0x00, 0x00, 0x00] = .ok (.illegal80 0xFF, []) := rfl

/-- CMD-5: bits [31:8] of 0x00000301 are ignored. -/
theorem test_decode_ignores_high_bits : decode [0x01, 0x03, 0x00, 0x00, 0xAA] = .ok (.decode, [0xAA]) := rfl
theorem test_decode_truncated : decode [0x01, 0x00, 0x00] = .error .truncated := rfl
theorem test_encode_crc : encode .crc = [0x03, 0x00, 0x00, 0x00] := by decide
theorem test_table_word_drops_bits_above_row : decodeTableWord 8 0x301 = some .decode := by decide

/-! ## Helpers -/

/-- The state an outcome answers. -/
def after (o : Host.Outcome State Fault Refusal) (s : State) : State :=
  match o with
  | .next t => t
  | .fault _ => s
  | .refused _ => s

theorem next_after {o : Host.Outcome State Fault Refusal} (s : State) (h : ∃ t, o = .next t) : o = .next (after o s) := by
  obtain ⟨t, rfl⟩ := h
  rfl

/-- The state after a command. -/
def ran (i : Instr) (s : State) : State := after (exec i s) s

theorem exec_ran (i : Instr) (s : State) : exec i s = .next (ran i s) := next_after s (exec_next i s)

/-- The state after one step. -/
def stepped (s : State) : State := after (step s) s

/-- IN and IN_LEN as the host loads them. -/
def withIn (bs : List Byte) (s : State) : State := { s.setBytes 0x1000 bs with inLen := BitVec.ofNat 16 bs.length }

/-- FUNC, DATA and DATA_LEN as the host loads them. -/
def withFrame (f : Byte) (bs : List Byte) (s : State) : State :=
  { s.setBytes 0x3000 bs with func := f, dataLen := BitVec.ofNat 16 bs.length }

/-- The reset state of a block with BUF_BYTES = `n` + 7. -/
def small (n : Fin 4090) : State := State.resetWith ⟨n⟩

/-- DEC-4's IN. -/
def dec4 : State := withIn [0x7B, 0x7B, 0x01, 0x02, 0x03, 0x61, 0x61, 0x7D, 0x7D] State.reset

/-- DEC-3's IN, a frame of minimum length. -/
def dec3 : State := withIn [0x7B, 0x7B, 0x84, 0xBF, 0x23, 0x7D, 0x7D] State.reset

/-- DEC-13's IN: all four delimiter conditions. -/
def dec13 : State := withIn [0x00, 0x01, 0x84, 0xBF, 0x23, 0x00, 0x01] State.reset

/-- DEC-14's IN: a wrong checksum. -/
def dec14 : State := withIn [0x7B, 0x7B, 0x84, 0xBF, 0x24, 0x7D, 0x7D] State.reset

/-- DEC-2's IN: one byte short. -/
def dec2 : State := withIn [0x7B, 0x7B, 0x84, 0xBF, 0x23, 0x7D] State.reset

/-- DEC-32's IN, which fills a block of BUF_BYTES = 8. -/
def dec32 : State := withIn [0x7B, 0x7B, 0x10, 0x20, 0x0D, 0xA8, 0x7D, 0x7D] (small 1)

/-- ENC-2's operands. -/
def enc2 : State := withFrame 0x01 [0x02, 0x03] State.reset

/-- ENC-9's operands: a payload of MAX_DATA bytes in a block of BUF_BYTES = 8. -/
def enc9 : State := withFrame 0x10 [0x20] (small 1)

/-- The host's program, with the turns of a schedule. -/
def hosted (prog : List HostStmt) (turns : List Turn) (s : State) : State :=
  { s with host := .start prog, schedule := turns }

/-! ## The spec's vectors -/

/-- CRC-18, the catalogued check value. -/
theorem test_crc16_check_value : crc16 [0x31, 0x32, 0x33, 0x34, 0x35, 0x36, 0x37, 0x38, 0x39] = 0x4B37 := by decide +kernel

/-- CRC-17. -/
theorem test_crc16_modbus_request : crc16 [0x01, 0x03, 0x00, 0x0A, 0x00, 0x01] = 0x08A4 := by decide +kernel

/-- NOP-2: after DEC-13, RESULT and DCAUSE are cleared. -/
theorem test_nop_clears_result : (ran .nop (ran .decode dec13)).statusWord = 0x00000002 := by decide +kernel

/-- ILL-1 to ILL-3's status, through the issue and the engine's step. -/
theorem test_illegal04 : let t := stepped (State.issue 0x04 State.reset); (t.statusWord, t.cmdOp) = (0x00000072, 0x04) := by
  decide +kernel
theorem test_illegal08 : let t := stepped (State.issue 0x0F State.reset); (t.statusWord, t.cmdOp) = (0x00000072, 0x0F) := by
  decide +kernel
theorem test_illegal10 : let t := stepped (State.issue 0x10 State.reset); (t.statusWord, t.cmdOp) = (0x00000072, 0x10) := by
  decide +kernel
theorem test_illegal20 : let t := stepped (State.issue 0x3F State.reset); (t.statusWord, t.cmdOp) = (0x00000072, 0x3F) := by
  decide +kernel
theorem test_illegal40 : let t := stepped (State.issue 0x7E State.reset); (t.statusWord, t.cmdOp) = (0x00000072, 0x7E) := by
  decide +kernel
theorem test_illegal80 : let t := stepped (State.issue 0xFF State.reset); (t.statusWord, t.cmdOp) = (0x00000072, 0xFF) := by
  decide +kernel

/-- CMD-CRC-2 and CMD-CRC-4. -/
theorem test_crc_command : (ran .crc (withIn [0x31, 0x32, 0x33, 0x34, 0x35, 0x36, 0x37, 0x38, 0x39] State.reset)).calcCrc = 0x4B37 := by
  decide +kernel
theorem test_crc_command_whole_frame : (ran .crc dec3).calcCrc = 0x3D1F := by decide +kernel

/-- DEC-4. -/
theorem test_decode_frame :
    let t := ran .decode dec4;
    (t.statusWord, t.func, t.dataLen, t.dataByte 0, t.dataByte 1, t.rxCrc) = (0x00000002, 0x01, 2, 0x02, 0x03, 0x6161) := by
  decide +kernel

/-- DEC-15, the checksum bytes swapped. -/
theorem test_decode_swapped_checksum :
    let t := ran .decode (withIn [0x7B, 0x7B, 0x84, 0x23, 0xBF, 0x7D, 0x7D] State.reset);
    (t.statusWord, t.rxCrc, t.calcCrc) = (0x00000032, 0xBF23, 0x23BF) := by decide +kernel

/-- ENC-2. -/
theorem test_encode_frame :
    let t := ran .encode enc2;
    (t.outLen, (List.range 9).map t.outByte) = (9, [0x7B, 0x7B, 0x01, 0x02, 0x03, 0x61, 0x61, 0x7D, 0x7D]) := by
  decide +kernel

/-- ENC-10: the bytes beyond OUT_LEN stay. -/
theorem test_encode_keeps_bytes_beyond :
    let t := ran .encode (withFrame 0x84 [] (ran .encode enc2));
    (t.outLen, (List.range 9).map t.outByte) = (7, [0x7B, 0x7B, 0x84, 0xBF, 0x23, 0x7D, 0x7D, 0x7D, 0x7D]) := by
  decide +kernel

/-- BUS-13. -/
theorem test_window_word :
    let t := (memWrite 0x1000 4 0x44332211 State.reset).2;
    ((memRead 0x1000 4 t).1, (memRead 0x1002 2 t).1, (memRead 0x1001 1 t).1)
      = (.data 0x44332211, .data 0x4433, .data 0x22) := by decide +kernel

/-- BUS-3 to BUS-6 and BUS-14. -/
theorem test_bus_errors :
    [(memRead 0x0000 2 State.reset).1, (memRead 0x0002 4 State.reset).1, (memRead 0x002C 4 State.reset).1,
      (memRead 0x4000 4 State.reset).1, (memRead 0x1008 4 (small 3)).1] = List.replicate 5 .busError := by decide +kernel

/-- P5: a command written while busy, under the two schedules. -/
theorem test_hazard_engine_first :
    let p := [.wr 4 0x008 (.num 2), .wr 4 0x008 (.num 0)] ++ waitIdle;
    let t := after (Sys2Proof.core.run 5 (hosted p [.host, .engine, .host] State.reset)) State.reset;
    (t.cmdOp, t.statusWord, t.host.program) = (0x00, 0x00000002, []) := by decide +kernel
theorem test_hazard_host_first :
    let p := [.wr 4 0x008 (.num 2), .wr 4 0x008 (.num 0)] ++ waitIdle;
    let t := after (Sys2Proof.core.run 5 (hosted p [.host, .host] State.reset)) State.reset;
    (t.cmdOp, t.statusWord, t.host.program) = (0x02, 0x00000006, []) := by decide +kernel

/-- R102's example: the encoding of `RUN DECODE`, with one poll. -/
theorem test_run_decode_encoding :
    (after (Sys2Proof.core.run 3 (hosted (runCommand 0x01) [] State.reset)) State.reset).host.encoding
      = ["W4 0008 00000001".toList, "R4 000C".toList] := by decide +kernel

/-- A table word placed at the fetch runs as the first instruction after reset. -/
theorem test_withFetchWord_runs :
    (stepped (State.reset.withFetchWord 32 0x03)).calcCrc = 0xFFFF := by decide +kernel

/-! ## Witnesses: concrete states and operands that meet the hypotheses of the obligation named -/

theorem witness_DecodeOfEncodeIsTheCommand :
    ∀ i ∈ [Instr.nop, .decode, .encode, .crc, .illegal04 0x04, .illegal04 0x07, .illegal08 0x08, .illegal08 0x0F,
      .illegal10 0x10, .illegal10 0x1F, .illegal20 0x20, .illegal20 0x3F, .illegal40 0x40, .illegal40 0x7F,
      .illegal80 0x80, .illegal80 0xFF], i.wellFormed = true := by decide

theorem witness_EveryWordSelectsOneRow : opcodeTable[9]? = some ⟨"ILLEGAL", 0x00000080, 0x00000080⟩ := by decide

/-- Idle at reset: for every statement whose only hypothesis on the state is BUSY = 0 (ReservedCommandBitsAreIgnored,
CmdWriteWhileIdleIssues, LengthWritesAreCheckedAgainstCapacity, RegisterWritesStoreTheirFields, IdleRegisterReads). -/
theorem witness_idle : State.reset.busy = false := rfl

theorem witness_ReservedCommandBitsAreIgnored : dec4.busy = false := rfl

theorem witness_TransactionTextDeterminesTransaction :
    (∀ z ∈ [Transaction.write 1 0x1008 0xFF, Transaction.write 1 0x1008 0xFF], match z with
      | .write n _ v => (n = 1 ∨ n = 2 ∨ n = 4) ∧ v.toNat < 2 ^ (8 * n)
      | .read n _ => n = 1 ∨ n = 2 ∨ n = 4) ∧
    (∀ z ∈ [Transaction.read 2 0xFFFE, Transaction.write 4 0 0xFFFFFFFF], match z with
      | .write n _ v => (n = 1 ∨ n = 2 ∨ n = 4) ∧ v.toNat < 2 ^ (8 * n)
      | .read n _ => n = 1 ∨ n = 2 ∨ n = 4) := by
  simp

/-- Both ways the engine gets the turn: the schedule says so, or it is used up while BUSY = 1. -/
theorem witness_EngineStepRunsTheDecodedCommand :
    (∀ s ∈ [State.issue 0x01 dec4, { State.issue 0x01 dec4 with schedule := [.engine, .host] }],
      s.nextTurn = .engine ∧ s.busy = true ∧ s.pendingOp = some 0x01) ∧
    decode [0x01, 0x03, 0xFF, 0x00] = .ok (.decode, []) := ⟨by decide +kernel, rfl⟩

theorem witness_IllegalCommandsCompleteWithCodeSevenOnly :
    (∀ op ∈ [(0x04 : Byte), 0xFF], 4 ≤ op.toNat) ∧ Instr.illegal80 0xFF ∈ [Instr.illegal04 0xFF, .illegal08 0xFF,
      .illegal10 0xFF, .illegal20 0xFF, .illegal40 0xFF, .illegal80 0xFF] := by decide

/-- The clause of the empty sequence, and a sequence that fills IN. -/
theorem witness_CrcCommandComputesTheChecksumOfIn :
    State.reset.inLen = 0 ∧ dec32.inLen.toNat = dec32.params.bufBytes := by decide +kernel

theorem witness_DecodeRejectsShortFrames : State.reset.inLen.toNat < 7 ∧ dec2.inLen.toNat < 7 ∧ dec2.inLen.toNat = 6 := by
  decide +kernel

/-- At the minimum length: all four conditions hold; none holds. -/
theorem witness_DecodeReportsAllDelimiterConditions :
    7 ≤ dec13.inLen.toNat ∧ (ran .decode dec13).dcause = 0xF ∧ 7 ≤ dec3.inLen.toNat ∧ (ran .decode dec3).dcause = 0 := by
  decide +kernel

/-- Equal checksums, and unequal ones. -/
theorem witness_DecodeComparesTheChecksums :
    (7 ≤ dec3.inLen.toNat ∧ dec3.delimitersAccepted ∧ dec3.carriedChecksum = dec3.computedChecksum) ∧
    (7 ≤ dec14.inLen.toNat ∧ dec14.delimitersAccepted ∧ dec14.carriedChecksum ≠ dec14.computedChecksum) := by
  decide +kernel

/-- The empty payload, and the largest one (BUF_BYTES = 8). -/
theorem witness_DecodeDemultiplexesTheFrame :
    (7 ≤ dec3.inLen.toNat ∧ dec3.delimitersAccepted ∧ dec3.carriedChecksum = dec3.computedChecksum) ∧
    (7 ≤ dec32.inLen.toNat ∧ dec32.delimitersAccepted ∧ dec32.carriedChecksum = dec32.computedChecksum ∧
      0 < dec32.inLen.toNat - 7 ∧ dec32.inLen.toNat = dec32.params.bufBytes) := by decide +kernel

/-- Each of the four results. -/
theorem witness_DecodeReportsTheFirstFailingStep :
    dec2.inLen.toNat < 7 ∧ ¬dec13.delimitersAccepted ∧ dec14.carriedChecksum ≠ dec14.computedChecksum ∧
    (ran .decode dec4).result = 0 := by decide +kernel

/-- Each of the three errors. -/
theorem witness_FailedDecodeKeepsTheFrame :
    (ran .decode dec2).result = 1 ∧ (ran .decode dec13).result = 2 ∧ (ran .decode dec14).result = 3 := by decide +kernel

/-- Each of the four delimiter bytes, changed to another accepted value. -/
theorem witness_OneChangedDelimiterByteIsADelimiterError :
    exec .decode dec4 = .next (ran .decode dec4) ∧ (ran .decode dec4).result = 0 ∧ dec4.inLen.toNat = 9 ∧
    ∀ k ∈ [0, 1, 7, 8], (0xFF : Byte) ≠ dec4.inByte k := ⟨exec_ran .decode dec4, by decide +kernel⟩

/-- The ends of both clauses: the function byte, the last payload byte, both checksum bytes. -/
theorem witness_OneChangedInnerByteIsAChecksumMismatch :
    exec .decode dec4 = .next (ran .decode dec4) ∧ (ran .decode dec4).result = 0 ∧ dec4.inLen.toNat = 9 ∧
    (∀ k ∈ [2, 4, 5, 6], 2 ≤ k ∧ k ≤ dec4.inLen.toNat - 3 ∧ (0xFF : Byte) ≠ dec4.inByte k) ∧
    4 ≤ dec4.inLen.toNat - 5 ∧ dec4.inLen.toNat - 4 ≤ 5 := ⟨exec_ran .decode dec4, by decide +kernel⟩

/-- Six bytes, and seven with a right and with a wrong checksum. -/
theorem witness_MinimumLengthBoundary :
    dec2.inLen.toNat < 7 ∧ (dec3.inLen.toNat = 7 ∧ dec3.delimitersAccepted) ∧
    (dec14.inLen.toNat = 7 ∧ dec14.delimitersAccepted) := by decide +kernel

/-- The empty payload, and one of MAX_DATA bytes. -/
theorem witness_EncodeBuildsTheWireFrame :
    State.reset.dataLen.toNat = 0 ∧ enc9.dataLen.toNat ≤ enc9.params.maxData.val ∧
    enc9.dataLen.toNat = enc9.params.maxData.val ∧ 0 < enc9.dataLen.toNat := by decide +kernel

theorem witness_DecodeOfEncodeGivesTheFrameBack :
    enc2.dataLen.toNat ≤ enc2.params.maxData.val ∧ exec .encode enc2 = .next (ran .encode enc2) ∧
    dec4.inLen = (ran .encode enc2).outLen ∧
    ∀ k < (ran .encode enc2).outLen.toNat, dec4.inByte k = (ran .encode enc2).outByte k :=
  ⟨by decide +kernel, exec_ran .encode enc2, by decide +kernel, by decide +kernel⟩

theorem witness_EncodeAfterDecodeNormalisesDelimiters :
    dec32.inLen.toNat ≤ dec32.params.bufBytes ∧ exec .decode dec32 = .next (ran .decode dec32) ∧
    (ran .decode dec32).result = 0 := ⟨by decide +kernel, exec_ran .decode dec32, by decide +kernel⟩

/-- A register and a window outside each write set. -/
theorem witness_CommandsChangeOnlyTheirWriteSet :
    dec32.dataLen.toNat ≤ dec32.params.maxData.val ∧
    (∀ i ∈ [Instr.nop, .decode, .encode, .crc, .illegal80 0xFF],
      writesReg i .inLen = false ∧ writesWindow i .input = false) ∧
    7 < windowCapacity dec32.params .input := by decide +kernel

theorem witness_ResultCodesBelongToTheirCommands :
    (ran .decode dec2).result = 1 ∧ (ran .decode dec13).result = 2 ∧ (ran .decode dec14).result = 3 ∧
    (ran (.illegal04 4) dec4).result = 7 ∧ (ran .decode dec13).dcause ≠ 0 := by decide +kernel

/-- Two states that agree on the operands and on little else, for each group of commands. -/
theorem witness_CommandResultsDependOnOperandsOnly :
    (let u := withIn [0x7B, 0x7B, 0x01, 0x02, 0x03, 0x61, 0x61, 0x7D, 0x7D] { enc2 with calcCrc := 1, werr := true };
      dec4.inLen = u.inLen ∧ (∀ k < dec4.inLen.toNat, dec4.inByte k = u.inByte k) ∧ dec4.func ≠ u.func) ∧
    (let u := withFrame 0x01 [0x02, 0x03] dec13;
      enc2.func = u.func ∧ enc2.dataLen = u.dataLen ∧ (∀ k < enc2.dataLen.toNat, enc2.dataByte k = u.dataByte k) ∧
      enc2.inLen ≠ u.inLen) ∧
    (∀ i ∈ [Instr.nop, .illegal04 4, .illegal80 0xFF], i = .nop ∨ 4 ≤ i.rowIndex) ∧
    (ran .decode dec4).result = 0 ∧ (ran .decode dec14).result = 3 := by decide +kernel

theorem witness_CrcDetectsEveryOneByteChange :
    crcSteps 8 0x1234 = crcSteps 8 0x1234 ∧ ([1, 2] : List Byte).length = ([1, 3] : List Byte).length ∧
    (0x80 : Byte) ≠ 0 ∧ (0x84 : Byte) ≠ 0x85 ∧ ∀ k ∈ [0, 14], k < 15 := by decide

/-- The last register; the last bytes of IN (BUF_BYTES = 10), of OUT and of DATA; and an access just past each. -/
theorem witness_BusErrorExactlyOnIllegalAccesses :
    (∀ x ∈ [((0x28 : Offset), 4), (0x1008, 2), (0x2009, 1), (0x3002, 1)], legalAccess (small 3).params x.1.toNat x.2) ∧
    ∀ x ∈ [((0x2C : Offset), 4), (0x1008, 4), (0x200A, 1), (0x3002, 2), (0x28, 2), (0x1000, 3)],
      ¬legalAccess (small 3).params x.1.toNat x.2 := by decide +kernel

theorem witness_CmdWriteWhileIdleIssues : State.reset.busy = false ∧ dec13.busy = false := ⟨rfl, rfl⟩

theorem witness_CmdWriteWhileBusyIsRefused : (State.issue 0x02 enc2).busy = true := rfl

/-- Idle, with the largest legal lengths and the ones above them (BUS-7, BUS-8, BUS-10). -/
theorem witness_LengthWritesAreCheckedAgainstCapacity :
    State.reset.busy = false ∧ ((0x00010100 : Word).setWidth 16).toNat ≤ State.reset.params.bufBytes ∧
    ¬((257 : Word).setWidth 16).toNat ≤ State.reset.params.bufBytes ∧
    ((249 : Word).setWidth 16).toNat ≤ State.reset.params.maxData.val ∧
    ¬((250 : Word).setWidth 16).toNat ≤ State.reset.params.maxData.val := by decide

theorem witness_RegisterWritesStoreTheirFields :
    State.reset.busy = false ∧ ∀ a ∈ [(0x000 : Offset), 0x028], a ∈ [(0x000 : Offset), 0x014, 0x020, 0x024, 0x028] :=
  ⟨rfl, by simp⟩

/-- A protected register, the last byte of IN, the first of DATA, while busy; the first and last bytes of OUT. -/
theorem witness_ProtectedWritesWhileBusyAreRefused :
    (State.issue 0x02 enc9).busy = true ∧
    ∀ x ∈ [((0x01C : Offset), 4), (0x1007, 1), (0x3000, 1), (0x2000, 4), (0x2007, 1)],
      legalAccess (State.issue 0x02 enc9).params x.1.toNat x.2 := by decide +kernel

theorem witness_IdleRegisterReads : (ran .decode dec4).busy = false := by decide +kernel

/-- Each group of write sets. -/
theorem witness_BusyReadsOfTheWriteSetAreFree :
    ∀ op ∈ [(0x00 : Byte), 0x01, 0x02, 0x03, 0x04, 0xFF],
      (State.issue op dec4).busy = true ∧ (State.issue op dec4).pendingOp = some op := by decide +kernel

/-- Idle, the first word of IN and the last byte of each window; then each kind of command, with a window outside its write
set. -/
theorem witness_WindowReadsAreLittleEndian :
    (dec32.busy = false ∧ ∀ x ∈ [((0x1000 : Offset), 4), (0x1007, 1), (0x2006, 2), (0x3000, 1)],
      legalAccess dec32.params x.1.toNat x.2) ∧
    (∀ op ∈ [(0x00 : Byte), 0x01, 0x02, 0xFF], (State.issue op dec32).pendingOp = some op) ∧
    (∀ x ∈ [((0x1000 : Offset), 4), (0x2007, 1)],
      legalAccess dec32.params x.1.toNat x.2 ∧ 0x1000 ≤ x.1.toNat ∧ x.1.toNat < 0x3000) ∧
    ∀ x ∈ [((0x1007 : Offset), 1), (0x3000, 1)],
      legalAccess dec32.params x.1.toNat x.2 ∧ 0x1000 ≤ x.1.toNat ∧ (x.1.toNat < 0x2000 ∨ 0x3000 ≤ x.1.toNat) :=
  ⟨by decide +kernel, by decide +kernel, by decide +kernel, by decide +kernel⟩

/-- DATA while DECODE runs; the first and the last bytes of OUT while ENCODE runs. -/
theorem witness_BusyWindowReadsOfTheWriteSetAreFree :
    ∀ x ∈ [((0x01 : Byte), (0x3000 : Offset), 1), (0x02, 0x2000, 4), (0x02, 0x2007, 1)],
      legalAccess dec32.params x.2.1.toNat x.2.2 ∧ (State.issue x.1 dec32).busy = true ∧
      (State.issue x.1 dec32).pendingOp = some x.1 ∧
      ((x.1 = 0x01 ∧ 0x3000 ≤ x.2.1.toNat) ∨ (x.1 = 0x02 ∧ 0x2000 ≤ x.2.1.toNat ∧ x.2.1.toNat < 0x3000)) := by
  decide +kernel

theorem witness_WindowWriteThenReadBack :
    dec32.busy = false ∧ ∀ x ∈ [((0x1000 : Offset), 4), (0x1007, 1), (0x3000, 1)],
      legalAccess dec32.params x.1.toNat x.2 := by decide +kernel

/-- A DECODE runs: STATUS and the first byte of IN are outside its write set, FUNC and DATA are in it. -/
theorem witness_ReadsHaveNoSideEffects :
    (∀ r : Reg, (State.issue 0x01 dec4).regUnstable r = false ∨ (0x00C : Offset) ≠ regSymbol r ∧ (0x1000 : Offset) ≠ regSymbol r) ∧
    (∀ w : Window, (State.issue 0x01 dec4).windowUnstable w = false ∨
      ¬windowBase w ≤ (0x00C : Offset).toNat ∧ ¬windowBase w ≤ (0x1000 : Offset).toNat) ∧
    (State.issue 0x01 dec4).regUnstable .func = true ∧ (State.issue 0x01 dec4).windowUnstable .data = true :=
  ⟨fun r => by cases r <;> decide, fun w => by cases w <;> simp [State.windowUnstable, State.running, State.issue, decodeOp, writesWindow, windowBase, Config.dataBase], rfl, rfl⟩

theorem witness_IrqFollowsDoneAndEnable :
    (0x2 : Word).getLsbD 1 = true ∧ (0xFFFFFFFE : Word).getLsbD 0 = false ∧ (1 : Word).getLsbD 0 = true := by decide

/-- A DECODE runs and the host, whose program writes to IN and to CMD, has the turn. -/
theorem witness_HostStepsKeepARunningCommandsOperands :
    let s := hosted [.wr 1 0x1000 (.num 0), .wr 4 0x008 (.num 0)] [.host, .host] (State.issue 0x01 dec4);
    s.busy = true ∧ s.nextTurn = .host ∧ s.done = false ∧ (stepped s).werr = true := by decide +kernel

theorem witness_HostStepsKeepResults :
    (ran .decode dec13).nextTurn = .host ∧ (hosted [.wr 1 0x2000 (.num 0)] [.host] (State.issue 0x01 dec4)).nextTurn = .host := by
  decide +kernel

/-- The engine's step clears BUSY and sets DONE; a reset clears BUSY. -/
theorem witness_OnlyTheEngineAndResetClearBusy :
    (let s := State.issue 0x00 State.reset;
      step s = .next (stepped s) ∧ s.busy = true ∧ (stepped s).busy = false ∧ s.done = false ∧ (stepped s).done = true) ∧
    (let s := { State.issue 0x00 State.reset with schedule := [.reset] };
      step s = .next (stepped s) ∧ s.busy = true ∧ (stepped s).busy = false) :=
  ⟨⟨rfl, by decide +kernel⟩, ⟨rfl, by decide +kernel⟩⟩

/-- The host clears WERR; a reset clears it. -/
theorem witness_WerrIsSticky :
    (let s := hosted (acknowledge) [] { State.reset with werr := true };
      step s = .next (stepped s) ∧ s.werr = true ∧ (stepped s).werr = false) ∧
    (let s := hosted [] [.reset] { State.reset with werr := true };
      step s = .next (stepped s) ∧ s.werr = true ∧ (stepped s).werr = false) :=
  ⟨⟨rfl, by decide +kernel⟩, ⟨rfl, by decide +kernel⟩⟩

/-- WR and RD, each legal and not, and a WR of a variable read earlier. -/
theorem witness_HostStatementsPerformTheirAccess :
    (∀ stmt ∈ [HostStmt.wr 1 0x1007 (.num 5), .wr 4 0x1006 (.num 5), .wr 1 0x1007 (.var 3), .rd 2 0x1006 3, .rd 4 0x2C 3],
      let s := State.setVar 3 0x41 (hosted (stmt :: acknowledge) [] dec32);
      s.host.status = .running ∧ s.host.program = stmt :: acknowledge ∧ s.host.value (.num 5) = some 5 ∧
      s.host.value (.var 3) = some 0x41) ∧
    legalAccess dec32.params (0x1007 : Offset).toNat 1 ∧ ¬legalAccess dec32.params (0x1006 : Offset).toNat 4 ∧
    memRead 0x1006 2 (hosted [.rd 2 0x1006 3] [] dec32) = (.data 0x7D7D, hosted [.rd 2 0x1006 3] [] dec32) ∧
    ¬legalAccess dec32.params (0x2C : Offset).toNat 4 := by
  decide +kernel

/-- A POLL that is met, one that is not, one with a bus error; an EXPECT that holds, and one that fails. -/
theorem witness_PollAndExpectFollowTheNotation :
    (let s := hosted (waitIdle ++ acknowledge) [] dec4;
      s.host.status = .running ∧ s.host.program = .poll 0x00C (.num 1) (.num 0) :: acknowledge ∧
      s.host.value (.num 1) = some 1 ∧ s.host.value (.num 0) = some 0 ∧ memRead 0x00C 4 s = (.data 0, s)) ∧
    (let s := State.setVar 7 1 (hosted [.poll 0x00C (.var 7) (.num 0)] [.host] (State.issue 0x01 dec4));
      s.host.value (.var 7) = some 1 ∧ memRead 0x00C 4 s = (.data 1, s) ∧ (1 : Word) &&& 1 ≠ 0) ∧
    ¬legalAccess dec4.params (0x2C : Offset).toNat 4 ∧
    (∀ v ∈ [HostValue.num 0x41, .var 7],
      let s := State.setVar 7 0x41 (hosted [.expect 7 v] [] dec4);
      s.host.status = .running ∧ s.host.value (.var 7) = some 0x41 ∧ s.host.value v = some 0x41 ∧
      s.host.program = .expect 7 v :: []) ∧
    (let s := State.setVar 7 0x41 (hosted [.expect 7 (.num 0x42)] [] dec4);
      s.host.status = .running ∧ s.host.value (.var 7) = some 0x41 ∧ s.host.value (.num 0x42) = some 0x42 ∧
      s.host.program = .expect 7 (.num 0x42) :: [] ∧ (0x41 : Word) ≠ 0x42) := by
  decide +kernel

/-- Buffers filled to their capacity, and nothing loaded. -/
theorem witness_LoadsPlaceBytesAndLength :
    (∀ bs ∈ [([] : List Byte), [1, 2, 3, 4, 5, 6, 7, 8]],
      let s := hosted (loadIn bs ++ acknowledge) [] (small 1);
      s.busy = false ∧ s.schedule = [] ∧ s.host.status = .running ∧ bs.length ≤ s.params.bufBytes ∧
      s.host.program = loadIn bs ++ acknowledge) ∧
    (∀ bs ∈ [([] : List Byte), [9]],
      let s := hosted (loadData bs ++ acknowledge) [] (small 1);
      s.busy = false ∧ s.schedule = [] ∧ s.host.status = .running ∧ bs.length ≤ s.params.maxData.val ∧
      s.host.program = loadData bs ++ acknowledge) := by decide +kernel

theorem witness_RunIssuesAndWaits :
    let s := hosted (runCommand 0x01 ++ acknowledge) [] dec4;
    s.busy = false ∧ s.schedule = [] ∧ s.host.status = .running ∧ s.host.program = runCommand 0x01 ++ acknowledge := by
  decide +kernel

/-- A byte nothing has written, and a written one beside it, over a host write to another. -/
theorem witness_UnwrittenBytesAreFixedUntilWritten :
    let s := hosted [.wr 1 0x1002 (.num 5)] [] dec4;
    step s = .next (stepped s) ∧ s.nextTurn ≠ .reset ∧
    lookupCell (stepped s).mem 0x10FF = lookupCell s.mem 0x10FF ∧ lookupCell s.mem 0x10FF = none ∧
    lookupCell (stepped s).mem 0x1003 = lookupCell s.mem 0x1003 := ⟨rfl, by decide +kernel⟩

theorem witness_ResetStepClearsEveryRegister :
    (hosted [] [.reset] (State.issue 0x02 enc2)).nextTurn = .reset := rfl

/-- A state in the middle of a run: two bytes of IN written, a command running. -/
def running : State := State.issue 0x03 (withIn [0x31, 0x32] (ran .decode dec13 |>.resetBlock))

theorem running_inv : running.Inv where
  mem_canonical := by decide +kernel
  mem_mapped := by
    intro c hc
    have h : c = (0x1000, 0x31) ∨ c = (0x1001, 0x32) := by simpa [running, withIn, State.setBytes, storeCells, storeCell] using hc
    rcases h with rfl | rfl
    · exact ⟨.input, 0, by decide +kernel, rfl⟩
    · exact ⟨.input, 1, by decide +kernel, rfl⟩
  in_len_legal := by decide +kernel
  data_len_legal := by decide +kernel
  out_len_legal := by decide +kernel
  pending_matches := by decide +kernel
  not_done_while_busy := by decide +kernel
  result_assigned := by decide +kernel
  cause_iff_delimiter := by decide +kernel

theorem witness_EveryStepKeepsTheInvariant : running.Inv ∧ step running = .next (stepped running) :=
  ⟨running_inv, next_after running ⟨_, rfl⟩⟩

theorem witness_InvariantStatesNeverStop : running.Inv := running_inv

theorem witness_EveryIssuedCommandCompletes : running.Inv ∧ running.busy = true := ⟨running_inv, rfl⟩

end Sys2Proof.Tests
end

section
/-! SUPPORT. What a host turn keeps, the results a command can commit, and the invariant: kept by each operation of the
block, by each agent's turn and so by every step. -/

namespace Sys2Proof.Machine

/-! The agents' turns. -/

/-- A property of the state that a change of the HOST agent's own fields and a used-up free value keep, and that every
host write keeps, is kept by a host turn (R20, R100). -/
theorem hostTurn_keeps {P : State → Prop} {s : State} (hs : P s) (hhost : ∀ t h, P t → P { t with host := h })
    (hread : P { s with freeReads := s.freeReads + 1 }) (hwrite : ∀ a n v, P (memWrite a n v s).2) :
    P (hostTurn s) := by
  rcases hostTurn_cases s with ⟨h, e⟩ | ⟨n, a, -, v, -, h, -, -, e⟩ | ⟨n, a, h, e⟩
  · rw [e]; exact hhost _ _ hs
  · rw [e]; exact hhost _ _ (hwrite a n v)
  · rw [e]
    rcases memRead_state a n s with er | er
    · rw [er]; exact hhost _ _ hs
    · rw [er]; exact hhost _ _ hread

/-- The host's turn always answers a next state. -/
theorem step_host {s : State} (h : s.nextTurn = .host) : step s = .next (hostTurn s.dropTurn) := by
  simp only [step, h, takeTurn]

/-! The codes of the results. -/

/-- No code a command finishes with is reserved (R29). -/
theorem resultBits_assigned (c : ResultCode) :
    ResultCode.bits c ≠ 4 ∧ ResultCode.bits c ≠ 5 ∧ ResultCode.bits c ≠ 6 := by cases c <;> decide

/-- Different results have different codes (R29). -/
@[simp] theorem resultBits_inj (c d : ResultCode) : ResultCode.bits c = ResultCode.bits d ↔ c = d := by
  cases c <;> cases d <;> decide

/-- Which result a command can commit, with DCAUSE non-zero for DELIMITER_ERROR only: every one but ILLEGAL_COMMAND for
DECODE, OK for the other assigned commands, ILLEGAL_COMMAND for the ILLEGAL ones (R29, R30, R211 to R214). -/
theorem exec_result {i : Instr} {s t : State} (h : exec i s = .next t) :
    ∃ c : ResultCode, t.result = ResultCode.bits c ∧ (t.dcause ≠ 0 ↔ c = .delimiterError) ∧
      ((i = .decode ∧ c ≠ .illegalCommand) ∨ (i.rowIndex < 4 ∧ c = .ok) ∨
        (4 ≤ i.rowIndex ∧ c = .illegalCommand)) := by
  rcases exec_cases h with ⟨rfl, rfl⟩ | ⟨rfl, h⟩ | ⟨rfl, rfl⟩ | ⟨rfl, rfl⟩ | ⟨hi, rfl⟩
  · exact ⟨.ok, by simp [Instr.rowIndex]⟩
  · rcases execDecode_cases h with ⟨-, rfl⟩ | ⟨-, hc, rfl⟩ | ⟨-, -, -, rfl⟩ | ⟨-, -, -, rfl⟩
    · exact ⟨.frameTooShort, by simp⟩
    · exact ⟨.delimiterError, by simpa using hc⟩
    · exact ⟨.checksumMismatch, by simp⟩
    · exact ⟨.ok, by simp⟩
  · exact ⟨.ok, by simp [Instr.rowIndex]⟩
  · exact ⟨.ok, by simp [Instr.rowIndex]⟩
  · exact ⟨.illegalCommand, by simp [hi]⟩

/-! The invariant. -/

/-- The offsets of consecutive bytes that fit a buffer are mapped (R65). -/
theorem bufferMapped_of_fits {p : Params} {w : Window} {k n a : Nat} (hfit : k + n ≤ windowCapacity p w)
    (ha : windowAddr w k ≤ a ∧ a < windowAddr w k + n) : bufferMapped p a := by
  unfold windowAddr at ha
  exact ⟨w, a - windowBase w, by omega, by unfold windowAddr; omega⟩

/-- BUF_BYTES is MAX_DATA + 7, at most 4096 (R5). -/
theorem bufBytes_bounds (p : Params) : p.bufBytes = p.maxData.val + 7 ∧ p.bufBytes ≤ 4096 := by
  have := p.maxData.isLt
  unfold Params.bufBytes
  omega

/-- The payload of a wire frame is 7 bytes shorter than the frame (R94, R167). -/
theorem payload_length_toNat {s : State} (h7 : 7 ≤ s.len) : (s.inLen - 7).toNat = s.len - 7 := by
  unfold State.len at h7 ⊢
  bv_omega

/-- RESET keeps BUF_BYTES only, and every other field takes a legal value (R241). -/
theorem resetBlock_inv (s : State) : s.resetBlock.Inv where
  mem_canonical := List.Pairwise.nil
  mem_mapped := by simp
  in_len_legal := by simp
  data_len_legal := by simp
  out_len_legal := .inl rfl
  pending_matches := rfl
  not_done_while_busy := fun _ => rfl
  result_assigned := by simp
  cause_iff_delimiter := by simp [ResultCode.bits]

namespace State.Inv
variable {s : State} (hs : s.Inv)
include hs

theorem host (h : HostAgent) : State.Inv { s with host := h } := { hs with }

theorem freeReads (k : Nat) : State.Inv { s with freeReads := k } := { hs with }

theorem dropTurn : s.dropTurn.Inv := { hs with }

theorem refuseWrite : s.refuseWrite.Inv := { hs with }

theorem ctrl (b : Bool) : State.Inv { s with ie := b } := { hs with }

theorem func (b : Byte) : State.Inv { s with func := b } := { hs with }

theorem calcCrc (c : Half) : State.Inv { s with calcCrc := c } := { hs with }

theorem stageChecksums : s.stageChecksums.Inv := { hs with }

theorem inLen {l : Half} (hl : l.toNat ≤ s.params.bufBytes) : State.Inv { s with inLen := l } :=
  { hs with in_len_legal := hl }

theorem dataLen {l : Half} (hl : l.toNat ≤ s.params.maxData.val) : State.Inv { s with dataLen := l } :=
  { hs with data_len_legal := hl }

theorem outLen {l : Half} (h7 : 7 ≤ l.toNat) (hl : l.toNat ≤ s.params.bufBytes) : State.Inv { s with outLen := l } :=
  { hs with out_len_legal := .inr ⟨h7, hl⟩ }

/-- A STATUS write can only clear DONE (R27). -/
theorem writeStatus (v : Word) : (s.writeStatus v).Inv :=
  { hs with not_done_while_busy := fun hb => by simp [hs.not_done_while_busy hb] }

/-- An issue sets PENDING_OP, CMD.OP and BUSY together and clears DONE (R120). -/
theorem issue (op : Byte) : (State.issue op s).Inv :=
  { hs with pending_matches := rfl, not_done_while_busy := fun _ => rfl }

/-- A completion leaves no command, and DCAUSE tells DELIMITER_ERROR (R122, R30). -/
theorem complete {c : ResultCode} {d : BitVec 4} (hd : d ≠ 0 ↔ c = .delimiterError) : (State.complete c d s).Inv :=
  { hs with
    pending_matches := rfl
    not_done_while_busy := fun hb => nomatch hb
    result_assigned := resultBits_assigned c
    cause_iff_delimiter := hd.trans (resultBits_inj c .delimiterError).symm }

/-- Bytes written inside one buffer (R65). -/
theorem setBytes {w : Window} {k : Nat} {bs : List Byte} (hfit : k + bs.length ≤ windowCapacity s.params w) :
    (s.setBytes (windowAddr w k) bs).Inv :=
  { hs with
    mem_canonical := setBytes_wf _ _ hs.mem_canonical
    mem_mapped := fun c hc => by
      rcases mem_storeCells hc with ha | hold
      · exact bufferMapped_of_fits hfit ha
      · exact hs.mem_mapped c hold }

/-- The payload of a frame in IN fits DATA, and its length is legal (R167). -/
theorem stageFrame (h7 : 7 ≤ s.len) : s.stageFrame.Inv := by
  have hin := hs.in_len_legal
  have hcap := bufBytes_bounds s.params
  have hset : (s.setBytes (windowAddr .data 0) s.wirePayload).Inv :=
    hs.setBytes (by simp only [wirePayload_length, windowCapacity, State.len]; omega)
  have hlen : (s.inLen - 7).toNat ≤ s.params.maxData.val := by rw [payload_length_toNat h7, State.len]; omega
  exact (hset.dataLen hlen).func (s.inByte 2)

/-- The wire frame of the logical frame fits OUT, and its length is legal (R194). -/
theorem stageWire : s.stageWire.Inv := by
  have hdata := hs.data_len_legal
  have hcap := bufBytes_bounds s.params
  have hlen : (s.dataLen + 7).toNat = s.dataLen.toNat + 7 := by bv_omega
  have hset : (s.setBytes (windowAddr .output 0) s.frame.wire).Inv :=
    hs.setBytes (by simp only [wire_length, frame_data_length, windowCapacity]; omega)
  have hfits : (s.dataLen + 7).toNat ≤ s.params.bufBytes := by omega
  exact (hset.outLen (by omega) hfits).calcCrc (crc16 s.frame.covered)

/-- Every command keeps the invariant: its staging does, and its completion does (R122). -/
theorem exec {i : Instr} {t : State} (h : exec i s = .next t) : t.Inv := by
  rcases exec_cases h with ⟨-, rfl⟩ | ⟨-, h⟩ | ⟨-, rfl⟩ | ⟨-, rfl⟩ | ⟨-, rfl⟩
  · exact hs.complete (by simp)
  · rcases execDecode_cases h with ⟨-, rfl⟩ | ⟨-, hc, rfl⟩ | ⟨-, -, -, rfl⟩ | ⟨h7, -, -, rfl⟩
    · exact hs.complete (by simp)
    · exact hs.complete (by simpa using hc)
    · exact hs.stageChecksums.complete (by simp)
    · exact (hs.stageChecksums.stageFrame h7).complete (by simp)
  · exact hs.stageWire.complete (by simp)
  · exact (hs.calcCrc _).complete (by simp)
  · exact hs.complete (by simp)

/-- Every host write keeps the invariant (R67). -/
theorem memWrite (a : Offset) (n : Nat) (v : Word) : (memWrite a n v s).2.Inv := by
  rcases memWrite_cases a n v s with
    e | e | ⟨-, -, e⟩ | e | ⟨-, e | ⟨hl, e⟩ | e | ⟨hl, e⟩ | ⟨w, k, -, hfit, e⟩⟩ <;> rw [e]
  · exact hs
  · exact hs.ctrl _
  · exact hs.writeStatus v
  · exact hs.refuseWrite
  · exact hs.issue _
  · exact hs.inLen hl
  · exact hs.func _
  · exact hs.dataLen hl
  · exact hs.setBytes (by simpa using hfit)

theorem hostTurn : (hostTurn s).Inv :=
  hostTurn_keeps hs (fun _ h ht => ht.host h) (hs.freeReads _) hs.memWrite

end State.Inv

/-- Settles O54: each agent's turn keeps the invariant. -/
theorem everyStepKeepsTheInvariant : Obligations.EveryStepKeepsTheInvariant := by
  intro s t hs h
  rcases step_cases h with ⟨-, rfl⟩ | ⟨-, rfl⟩ | ⟨-, -, rfl⟩ | ⟨-, -, op, -, h⟩
  · exact hs.dropTurn.hostTurn
  · exact resetBlock_inv _
  · exact hs.dropTurn
  · exact hs.dropTurn.exec h

end Sys2Proof.Machine
end

section
/-! SUPPORT. What a command commits is a function of its operands: the operands of DECODE and CRC are IN_LEN and the
bytes of IN below it, those of ENCODE the logical frame. -/

namespace Sys2Proof.Machine

/-! The staged bytes, as reads. -/

/-- DATA after DECODE's staging holds the payload of the frame in IN (R167). -/
theorem dataByte_stageFrame {s : State} {k : Nat} (hk : k < s.len - 7) :
    s.stageFrame.dataByte k = s.inByte (3 + k) := by
  have hp : k < s.wirePayload.length := by simpa using hk
  rw [State.dataByte, byteAt_stageFrame, byteAt_setBytes_inside hp, State.inByte, ← Nat.add_assoc]
  exact bytesFrom_getElem ..

/-- OUT after ENCODE's staging holds the wire frame of the logical frame (R191, R192). -/
theorem outByte_stageWire {s : State} {k : Nat} (hk : k < s.dataLen.toNat + 7) :
    s.frame.wire[k]? = some (s.stageWire.outByte k) := by
  have hw : k < s.frame.wire.length := by simpa using hk
  rw [State.outByte, byteAt_stageWire, byteAt_setBytes_inside hw]
  exact List.getElem?_eq_getElem hw

/-! The operands. -/

/-- The two states hold the same wire frame in IN: what DECODE and CRC read (R46, R93). -/
structure SameInput (s u : State) : Prop where
  inLen : s.inLen = u.inLen
  bytes : ∀ k < s.len, s.inByte k = u.inByte k

namespace SameInput
variable {s u : State} (h : SameInput s u)
include h

theorem len : s.len = u.len := congrArg BitVec.toNat h.inLen

theorem inBytes {lo n : Nat} (hn : lo + n ≤ s.len) : s.inBytes lo n = u.inBytes lo n :=
  bytesFrom_congr fun k hk => by
    simpa only [State.inByte, Nat.add_assoc] using h.bytes (lo + k) (by omega)

theorem wireCause (h7 : 7 ≤ s.len) : s.wireCause = u.wireCause := by
  simp only [State.wireCause, ← h.len]
  rw [h.bytes 0 (by omega), h.bytes 1 (by omega), h.bytes (s.len - 2) (by omega), h.bytes (s.len - 1) (by omega)]

theorem wireChecksum (h7 : 7 ≤ s.len) : s.wireChecksum = u.wireChecksum := by
  simp only [State.wireChecksum, ← h.len]
  rw [h.bytes (s.len - 4) (by omega), h.bytes (s.len - 3) (by omega)]

theorem wireCovered (h7 : 7 ≤ s.len) : s.wireCovered = u.wireCovered := by
  simp only [State.wireCovered, ← h.len]
  exact h.inBytes (by omega)

/-- CRC commits the same CALC_CRC, with OK (R143). -/
theorem execCrc : ∃ t v, exec .crc s = .next t ∧ exec .crc u = .next v ∧
    t.calcCrc = v.calcCrc ∧ t.result = v.result ∧ t.dcause = v.dcause :=
  ⟨_, _, rfl, rfl, by simp [← h.len, h.inBytes (lo := 0) (n := s.len) (by omega)], rfl, rfl⟩

/-- DECODE takes the same branch, and commits the same values there (R160). -/
theorem execDecode : ∃ t v, exec .decode s = .next t ∧ exec .decode u = .next v ∧ t.result = v.result ∧
    t.dcause = v.dcause ∧ (t.result = 0 ∨ t.result = 3 → t.rxCrc = v.rxCrc ∧ t.calcCrc = v.calcCrc) ∧
    (t.result = 0 → t.func = v.func ∧ t.dataLen = v.dataLen ∧ ∀ k < t.dataLen.toNat, t.dataByte k = v.dataByte k) := by
  by_cases h7 : s.len < 7
  · exact ⟨_, _, execDecode_short h7, execDecode_short (h.len ▸ h7), rfl, rfl, by simp [ResultCode.bits],
      by simp [ResultCode.bits]⟩
  have h7 : 7 ≤ s.len := Nat.le_of_not_lt h7
  have h7u : 7 ≤ u.len := h.len ▸ h7
  have hcause := h.wireCause h7
  by_cases hc : s.wireCause = 0
  case neg =>
    exact ⟨_, _, execDecode_delimiter h7 hc, execDecode_delimiter h7u (hcause ▸ hc), rfl, hcause,
      by simp [ResultCode.bits], by simp [ResultCode.bits]⟩
  have hrx := h.wireChecksum h7
  have hcov := h.wireCovered h7
  have hcu : u.wireCause = 0 := hcause ▸ hc
  by_cases hk : s.wireChecksum = crc16 s.wireCovered
  case neg =>
    exact ⟨_, _, execDecode_mismatch h7 hc hk, execDecode_mismatch h7u hcu (hrx ▸ hcov ▸ hk), rfl, rfl,
      by simp [hrx, hcov], by simp [ResultCode.bits]⟩
  refine ⟨_, _, execDecode_ok h7 hc hk, execDecode_ok h7u hcu (hrx ▸ hcov ▸ hk), rfl, rfl, by simp [hrx, hcov],
    fun _ => ⟨h.bytes 2 (by omega), by simp [h.inLen], fun k hkd => ?_⟩⟩
  have hkl : k < s.len - 7 := payload_length_toNat h7 ▸ hkd
  calc s.stageChecksums.stageFrame.dataByte k
    _ = s.inByte (3 + k) := dataByte_stageFrame hkl
    _ = u.inByte (3 + k) := h.bytes _ (by omega)
    _ = u.stageChecksums.stageFrame.dataByte k := (dataByte_stageFrame (h.len ▸ hkl :)).symm

end SameInput

/-- Two states with the same FUNC, DATA_LEN and payload hold the same logical frame (R42). -/
theorem frame_congr {s u : State} (hf : s.func = u.func) (hl : s.dataLen = u.dataLen)
    (hd : ∀ k < s.dataLen.toNat, s.dataByte k = u.dataByte k) : s.frame = u.frame := by
  simp only [State.frame, hf, ← hl, Frame.mk.injEq, true_and]
  exact bytesFrom_congr hd

/-- ENCODE commits the same values for the same logical frame (R190). -/
theorem execEncode_congr {s u : State} (hl : s.dataLen = u.dataLen) (hframe : s.frame = u.frame) :
    ∃ t v, exec .encode s = .next t ∧ exec .encode u = .next v ∧ t.result = v.result ∧ t.dcause = v.dcause ∧
      t.outLen = v.outLen ∧ t.calcCrc = v.calcCrc ∧ ∀ k < s.dataLen.toNat + 7, t.outByte k = v.outByte k := by
  refine ⟨_, _, rfl, rfl, rfl, rfl, by simp [hl], by simp [hframe], fun k hk => ?_⟩
  have hs := outByte_stageWire hk
  have hu := outByte_stageWire (s := u) (hl ▸ hk)
  rw [hframe, hu] at hs
  exact (Option.some.inj hs).symm

/-- A command that reads no operand ends the same way from every state (R126, R127). -/
theorem exec_congr_of_no_operands {i : Instr} (hi : i = .nop ∨ 4 ≤ i.rowIndex) (s u : State) :
    ∃ t v, exec i s = .next t ∧ exec i u = .next v ∧ t.result = v.result ∧ t.dcause = v.dcause := by
  rcases hi with rfl | hi
  · exact ⟨_, _, rfl, rfl, rfl, rfl⟩
  · exact ⟨_, _, exec_illegal hi s, exec_illegal hi u, rfl, rfl⟩

/-- Settles O25: each command from its own operands. -/
theorem commandResultsDependOnOperandsOnly : Obligations.CommandResultsDependOnOperandsOnly := by
  intro s u
  refine ⟨fun hl hb => ?_, fun hf hl hd => execEncode_congr hl (frame_congr hf hl hd),
    fun i hi => exec_congr_of_no_operands hi s u⟩
  have h : SameInput s u := ⟨hl, hb⟩
  exact ⟨h.execCrc, h.execDecode⟩

/-- Settles O24: read off the one result each command can commit. -/
theorem resultCodesBelongToTheirCommands : Obligations.ResultCodesBelongToTheirCommands := by
  intro i s
  obtain ⟨t, ht⟩ := exec_next i s
  obtain ⟨c, hc, hd, hcases⟩ := exec_result ht
  refine ⟨t, ht, ?_⟩
  rw [hc, hd]
  rcases hcases with ⟨rfl, hne⟩ | ⟨hi, rfl⟩ | ⟨hi, rfl⟩
  · cases c <;> simp [ResultCode.bits, Instr.rowIndex] at hne ⊢
  · simp [ResultCode.bits, Nat.not_le.2 hi]
  · simp [ResultCode.bits, hi]

end Sys2Proof.Machine
end

section
/-! SUPPORT. The registers on the bus: what a 4-byte access at a register's offset does, and where STATUS holds its
fields. What a host turn cannot do to BUSY, DONE, WERR and the results. -/

namespace Sys2Proof.Machine

theorem regSymbol_toNat (r : Reg) : (regSymbol r).toNat = regOffset r := by cases r <;> rfl

/-- A write at a register's offset is the register's write (R67). -/
theorem memWrite_regSymbol (r : Reg) (v : Word) (s : State) :
    memWrite (regSymbol r) 4 v s = (.accepted, s.writeReg r v) := by
  simp only [memWrite, regSymbol_toNat, resolve_regOffset]

/-- A read at the offset of a register outside the running write set answers its value and changes nothing (R66, R69). -/
theorem memRead_regSymbol {r : Reg} {s : State} (h : s.regUnstable r = false) :
    memRead (regSymbol r) 4 s = (.data (s.regValue r), s) := by
  simp [memRead, regSymbol_toNat, resolve_regOffset, h]

/-- No register is unspecified to reads while idle (R76). -/
theorem regUnstable_idle {s : State} (h : s.busy = false) (r : Reg) : s.regUnstable r = false := by
  simp [State.regUnstable, State.running, h]

/-- STATUS is in no write set (R125). -/
@[simp] theorem writesReg_status (i : Instr) : writesReg i .status = false := by cases i <;> rfl

/-- CMD is in no write set (R125). -/
@[simp] theorem writesReg_cmd (i : Instr) : writesReg i .cmd = false := by cases i <;> rfl

/-- STATUS is never unspecified to reads (R76). -/
theorem regUnstable_status (s : State) : s.regUnstable .status = false := by simp [State.regUnstable]

/-- CMD is never unspecified to reads (R76). -/
theorem regUnstable_cmd (s : State) : s.regUnstable .cmd = false := by simp [State.regUnstable]

/-- A protected write while idle stores (R67). -/
theorem guarded_idle {s : State} (h : s.busy = false) (f : State → State) : s.guarded f = f s := by
  simp [State.guarded, h]

/-! Fields of a word. -/

/-- The bits of a command word above OP are not read by the decoder (R90). -/
theorem opField_of_reserved_bits (hi : Word) (op : Byte) : opField (hi <<< 8 ||| op.setWidth 32) = op := by
  ext i
  simp [opField]

/-- A one-bit field is the bit at its place, and zeros. -/
theorem flagBit_getLsbD (b : Bool) (place i : Nat) :
    (flagBit b place).getLsbD i = (decide (i < 32) && decide (i = place) && b) := by
  simp only [flagBit, BitVec.getLsbD_shiftLeft, BitVec.getLsbD_setWidth, BitVec.getLsbD_ofBool]
  grind

/-- A one-bit field as a number. -/
theorem flagBit_eq_ite (b : Bool) (place : Nat) : flagBit b place = if b then (1 : Word) <<< place else 0 := by
  cases b <;> simp [flagBit]

/-- The bits of STATUS (R26 to R31). -/
theorem statusWord_getLsbD (s : State) (i : Nat) :
    s.statusWord.getLsbD i =
      if i = 0 then s.busy else if i = 1 then s.done else if i = 2 then s.werr
      else if 4 ≤ i ∧ i < 7 then s.result.getLsbD (i - 4) else if 8 ≤ i then s.dcause.getLsbD (i - 8) else false := by
  have h3 : ∀ j, 3 ≤ j → s.result.getLsbD j = false := fun j hj => BitVec.getLsbD_of_ge _ _ hj
  have h4 : ∀ j, 4 ≤ j → s.dcause.getLsbD j = false := fun j hj => BitVec.getLsbD_of_ge _ _ hj
  simp only [State.statusWord, BitVec.getLsbD_or, BitVec.getLsbD_shiftLeft, BitVec.getLsbD_setWidth, flagBit_getLsbD]
  grind

/-! Host turns. -/

/-- No host write clears BUSY (R27, R70). -/
theorem memWrite_busy {s : State} (h : s.busy = true) (a : Offset) (n : Nat) (v : Word) :
    (memWrite a n v s).2.busy = true := by
  rcases memWrite_cases a n v s with e | e | ⟨-, -, e⟩ | e | ⟨hidle, -⟩
  · rw [e, h]
  · rw [e, ← h]
  · rw [e, State.writeStatus_busy, h]
  · rw [e, State.refuseWrite_busy, h]
  · simp [h] at hidle

/-- No host write sets DONE (R27, R70). -/
theorem memWrite_not_done {s : State} (h : s.done = false) (a : Offset) (n : Nat) (v : Word) :
    (memWrite a n v s).2.done = false := by
  rcases memWrite_cases a n v s with
    e | e | ⟨-, -, e⟩ | e | ⟨-, e | ⟨-, e⟩ | e | ⟨-, e⟩ | ⟨_, _, -, -, e⟩⟩ <;> rw [e] <;> simp [h]

/-- The only host write that clears WERR is one to STATUS with bit 2 set (R28). -/
theorem status_write_of_werr_cleared {s : State} {a : Offset} {n : Nat} {v : Word} (h : s.werr = true)
    (hc : (memWrite a n v s).2.werr = false) : a = 0x00C ∧ n = 4 ∧ v.getLsbD 2 = true := by
  rcases memWrite_cases a n v s with
    e | e | ⟨ha, hn, e⟩ | e | ⟨-, e | ⟨-, e⟩ | e | ⟨-, e⟩ | ⟨_, _, -, -, e⟩⟩ <;> rw [e] at hc <;> simp [h] at hc
  exact ⟨ha, hn, hc⟩

theorem hostTurn_busy {s : State} (h : s.busy = true) : (hostTurn s).busy = true :=
  hostTurn_keeps (P := fun t => t.busy = true) h (fun _ _ ht => ht) h (memWrite_busy h)

theorem hostTurn_not_done {s : State} (h : s.done = false) : (hostTurn s).done = false :=
  hostTurn_keeps (P := fun t => t.done = false) h (fun _ _ ht => ht) h (memWrite_not_done h)

/-- The only host statement that clears WERR is a 4-byte WR to STATUS of a value with bit 2 set (R28). -/
theorem status_statement_of_werr_cleared {s : State} (h : s.werr = true) (hc : (hostTurn s).werr = false) :
    ∃ v w rest, s.host.program = .wr 4 0x00C v :: rest ∧ s.host.value v = some w ∧ w.getLsbD 2 = true := by
  rcases hostTurn_cases s with ⟨g, e⟩ | ⟨n, a, v, w, rest, g, hp, hv, e⟩ | ⟨n, a, g, e⟩
  · simp [e, h] at hc
  · rw [e] at hc
    obtain ⟨rfl, rfl, hw⟩ := status_write_of_werr_cleared h hc
    exact ⟨v, w, rest, hp, hv, hw⟩
  · rcases memRead_state a n s with er | er <;> simp [e, er, h] at hc

/-- `t` holds the results of `s`: RESULT, DCAUSE, OUT_LEN, the checksum registers and OUT; and BUF_BYTES, the reset count
and the schedule are as in `s`. -/
structure SameResults (s t : State) : Prop where
  result : t.result = s.result
  dcause : t.dcause = s.dcause
  outLen : t.outLen = s.outLen
  checksums : SameChecksums s t
  out : ∀ k < s.params.bufBytes, t.outByte k = s.outByte k
  params : t.params = s.params
  epoch : t.epoch = s.epoch
  schedule : t.schedule = s.schedule

theorem SameResults.refl (s : State) : SameResults s s :=
  ⟨rfl, rfl, rfl, ⟨rfl, rfl⟩, fun _ _ => rfl, rfl, rfl, rfl⟩

/-- Bytes written inside IN or DATA are no bytes of OUT (R61). -/
theorem outByte_setBytes_other {s : State} {w : Window} {k : Nat} {bs : List Byte} (hw : w ≠ .output)
    (hfit : k + bs.length ≤ windowCapacity s.params w) {j : Nat} (hj : j < s.params.bufBytes) :
    (s.setBytes (windowAddr w k) bs).outByte j = s.outByte j := by
  have hcap := bufBytes_bounds s.params
  refine byteAt_setBytes_outside ?_
  cases w with
  | output => exact absurd rfl hw
  | input =>
    simp only [windowAddr, windowBase, windowCapacity, Config.inBase, Config.outBase] at hfit ⊢
    omega
  | data =>
    simp only [windowAddr, windowBase, windowCapacity, Config.dataBase, Config.outBase] at hfit ⊢
    omega

/-- No host write changes a result: the one that writes bytes writes none of OUT (R67, R70). -/
theorem memWrite_sameResults (a : Offset) (n : Nat) (v : Word) (s : State) :
    SameResults s (memWrite a n v s).2 := by
  rcases memWrite_cases a n v s with
    e | e | ⟨-, -, e⟩ | e | ⟨-, e | ⟨-, e⟩ | e | ⟨-, e⟩ | ⟨w, k, hw, hfit, e⟩⟩ <;> rw [e]
  pick_goal 9
  · exact { SameResults.refl s with out := fun j hj => outByte_setBytes_other hw (by simpa using hfit) hj }
  all_goals exact { SameResults.refl s with }

theorem hostTurn_sameResults (s : State) : SameResults s (hostTurn s) :=
  hostTurn_keeps (SameResults.refl s) (fun _ _ ht => { ht with }) { SameResults.refl s with }
    fun a n v => memWrite_sameResults a n v s

/-! The statements about the host's steps and the registers. -/

/-- Settles O43, from what a host turn changes. -/
theorem hostStepsKeepResults : Obligations.HostStepsKeepResults := by
  intro s hs
  have h := hostTurn_sameResults s.dropTurn
  exact ⟨_, step_host hs, h.result, h.dcause, h.outLen, h.checksums, h.out, h.params, h.epoch, h.schedule⟩

/-- Settles O44: the host's turn keeps BUSY set and DONE clear, and an engine's turn without a command changes neither. -/
theorem onlyTheEngineAndResetClearBusy : Obligations.OnlyTheEngineAndResetClearBusy := by
  intro s t h
  rcases step_cases h with ⟨-, rfl⟩ | ⟨ht, rfl⟩ | ⟨ht, -, rfl⟩ | ⟨ht, hb, -⟩
  · refine ⟨fun hb hb' => ?_, fun hd hd' => ?_⟩
    · simp [hostTurn_busy (s := s.dropTurn) hb] at hb'
    · simp [hostTurn_not_done (s := s.dropTurn) hd] at hd'
  · exact ⟨fun _ _ => .inr ht, fun _ hd => by simp at hd⟩
  · exact ⟨fun _ _ => .inl ht, fun hd hd' => by simp [hd] at hd'⟩
  · exact ⟨fun _ _ => .inl ht, fun _ _ => ⟨ht, hb⟩⟩

/-- Settles O45: no completion touches WERR, and of the host's statements only the write to STATUS clears it. -/
theorem werrIsSticky : Obligations.WerrIsSticky := by
  intro s t h hw hc
  rcases step_cases h with ⟨ht, rfl⟩ | ⟨ht, -⟩ | ⟨-, -, rfl⟩ | ⟨-, -, op, -, hexec⟩
  · exact .inr ⟨ht, status_statement_of_werr_cleared (s := s.dropTurn) hw hc⟩
  · exact .inl ht
  · simp [hw] at hc
  · obtain ⟨-, -, hwerr, -⟩ := exec_untouched hexec
    simp [hwerr, hw] at hc

/-- Settles O3: the decoder reads OP only, and CMD holds OP only. -/
theorem reservedCommandBitsAreIgnored : Obligations.ReservedCommandBitsAreIgnored := by
  intro hi op s hs
  have hop := opField_of_reserved_bits hi op
  have hw : (memWrite 0x008 4 (hi <<< 8 ||| op.setWidth 32) s).2 = State.issue op s := by
    rw [show (0x008 : Offset) = regSymbol .cmd from rfl, memWrite_regSymbol, State.writeReg, guarded_idle hs, hop]
  refine ⟨by rw [decodeWord, hop], ?_⟩
  rw [hw, show (0x008 : Offset) = regSymbol .cmd from rfl, memRead_regSymbol (regUnstable_cmd _)]
  rfl

/-- Settles O32: the two length registers' own checks. -/
theorem lengthWritesAreCheckedAgainstCapacity : Obligations.LengthWritesAreCheckedAgainstCapacity := by
  intro v s hs
  constructor
  · rw [show (0x010 : Offset) = regSymbol .inLen from rfl, memWrite_regSymbol, State.writeReg, guarded_idle hs]
    simp only [State.writeInLen, ← Nat.not_le, ite_not]
    rfl
  · rw [show (0x01C : Offset) = regSymbol .dataLen from rfl, memWrite_regSymbol, State.writeReg, guarded_idle hs]
    simp only [State.writeDataLen, ← Nat.not_le, ite_not]
    rfl

/-- Settles O33: each register's own write. -/
theorem registerWritesStoreTheirFields : Obligations.RegisterWritesStoreTheirFields := by
  intro v s
  refine ⟨fun hs => ?_, memWrite_regSymbol .ctrl v s, ?_, fun a ha => ?_⟩
  · exact (memWrite_regSymbol .func v s).trans (by rw [State.writeReg, guarded_idle hs])
  · refine (memWrite_regSymbol .status v s).trans ?_
    simp only [State.writeReg, State.writeStatus]
    cases v.getLsbD 1 <;> cases v.getLsbD 2 <;> simp
  · simp only [List.mem_cons, List.not_mem_nil, or_false] at ha
    rcases ha with rfl | rfl | rfl | rfl | rfl
    · exact memWrite_regSymbol .id v s
    · exact memWrite_regSymbol .outLen v s
    · exact memWrite_regSymbol .rxCrc v s
    · exact memWrite_regSymbol .calcCrc v s
    · exact memWrite_regSymbol .param v s

/-- Settles O35: STATUS reads as its word, bit by bit. -/
theorem statusReadLayout : Obligations.StatusReadLayout := by
  intro s
  have hbit := statusWord_getLsbD s
  refine ⟨s.statusWord, memRead_regSymbol (regUnstable_status s), hbit 0, hbit 1, hbit 2, hbit 3, ?_, hbit 7, ?_, ?_⟩
  · ext i hi
    simp only [BitVec.getElem_extractLsb', hbit]
    grind
  · ext i hi
    simp only [BitVec.getElem_extractLsb', hbit]
    grind
  · ext i hi
    simp only [BitVec.getElem_ushiftRight, hbit]
    grind

/-- Settles O36: an idle read answers the register's value, each register in turn. -/
theorem idleRegisterReads : Obligations.IdleRegisterReads := by
  intro s hs
  have hread (r : Reg) : memRead (regSymbol r) 4 s = (.data (s.regValue r), s) :=
    memRead_regSymbol (regUnstable_idle hs r)
  have hctrl : s.regValue .ctrl = if s.ie then 1 else 0 := flagBit_eq_ite s.ie 0
  have hstatus : s.regValue .status = s.dcause.setWidth 32 <<< 8 ||| s.result.setWidth 32 <<< 4
      ||| (if s.werr then 4 else 0) ||| (if s.done then 2 else 0) := by
    simp [State.regValue, State.statusWord, flagBit_eq_ite, hs]
  have hparam : (s.regValue .param).toNat = s.params.bufBytes := by
    have := bufBytes_bounds s.params
    simp only [State.regValue, BitVec.toNat_ofNat]
    omega
  exact ⟨hread .id, hctrl ▸ hread .ctrl, hread .cmd, hstatus ▸ hread .status, hread .inLen, hread .outLen, hread .func,
    hread .dataLen, hread .rxCrc, hread .calcCrc, _, hread .param, hparam⟩

/-- Settles O41: a completion sets DONE and keeps IE, and each of the writes stores its own field. -/
theorem irqFollowsDoneAndEnable : Obligations.IrqFollowsDoneAndEnable := by
  have hctrl (v : Word) (s : State) : (memWrite 0x004 4 v s).2 = { s with ie := v.getLsbD 0 } :=
    congrArg Prod.snd (memWrite_regSymbol .ctrl v s)
  have hstatus (v : Word) (s : State) : (memWrite 0x00C 4 v s).2 = s.writeStatus v :=
    congrArg Prod.snd (memWrite_regSymbol .status v s)
  refine ⟨fun i s => ?_, fun op s => by simp [State.irq], fun v s hv => ?_, fun v w s hv hw => ?_⟩
  · obtain ⟨t, ht⟩ := exec_next i s
    obtain ⟨hie, -, -, -, -, -, -, -, -, -, hdone, -⟩ := exec_untouched ht
    exact ⟨t, ht, by simp [State.irq, hie, hdone]⟩
  · rw [hstatus]
    simp [State.irq, hv]
  · simp only [hctrl, State.irq, hv, hw, Bool.and_false, Bool.and_true, and_self]

end Sys2Proof.Machine
end

section
/-! SUPPORT. The access rules of the host bus: which accesses have a target, which read is free and which answers what
the target holds, what a write does while idle and while a command runs, and the bytes of a bus value. -/

namespace Sys2Proof.Machine

/-! Bus values and their bytes (R64). -/

/-- Bit `i` of a little-endian value is bit `i % 8` of byte `i / 8`. -/
theorem littleEndian_getLsbD (bs : List Byte) {i : Nat} (hi : i < 32) :
    (littleEndian bs).getLsbD i = (bs[i / 8]?.getD 0).getLsbD (i % 8) := by
  induction bs generalizing i with
  | nil => simp [littleEndian]
  | cons b bs ih =>
    simp only [littleEndian, BitVec.getLsbD_or, BitVec.getLsbD_setWidth, BitVec.getLsbD_shiftLeft]
    by_cases h8 : i < 8
    · simp [h8, hi, Nat.div_eq_of_lt h8, Nat.mod_eq_of_lt h8]
    · have hhigh : b.getLsbD i = false := BitVec.getLsbD_of_ge _ _ (by omega)
      have hdiv : i / 8 = (i - 8) / 8 + 1 := by omega
      have hmod : i % 8 = (i - 8) % 8 := by omega
      simp [h8, hi, hhigh, hdiv, hmod, ih (show i - 8 < 32 by omega)]

/-- A value of `n` bytes has nothing above them. -/
theorem littleEndian_lt (bs : List Byte) : (littleEndian bs).toNat < 2 ^ (8 * bs.length) := by
  refine Nat.lt_pow_two_of_testBit _ fun i hi => ?_
  rw [BitVec.testBit_toNat]
  by_cases h : i < 32
  · rw [littleEndian_getLsbD bs h, List.getElem?_eq_none (by omega)]
    simp
  · exact BitVec.getLsbD_of_ge _ _ (by omega)

/-- Byte `i` of a little-endian value of at most four bytes is in bits [8i+7:8i]. -/
theorem littleEndian_byte {bs : List Byte} (h4 : bs.length ≤ 4) {i : Nat} (hi : i < bs.length) :
    (littleEndian bs >>> (8 * i)).setWidth 8 = bs[i] := by
  ext j hj
  rw [BitVec.getElem_setWidth, BitVec.getLsbD_ushiftRight, littleEndian_getLsbD bs (by omega),
    show (8 * i + j) / 8 = i by omega, show (8 * i + j) % 8 = j by omega, List.getElem?_eq_getElem hi]
  exact BitVec.getLsbD_eq_getElem hj

/-- Byte `i` of a value's bytes is its bits [8i+7:8i]. -/
theorem valueBytes_getElem? (n : Nat) (v : Word) (i : Nat) :
    (valueBytes n v)[i]? = if i < n then some ((v >>> (8 * i)).setWidth 8) else none := by
  induction n generalizing v i with
  | zero => rfl
  | succ n ih =>
    cases i with
    | zero => simp [valueBytes]
    | succ i => simp [valueBytes, ih, BitVec.shiftRight_add, Nat.mul_add, Nat.add_comm]

theorem valueBytes_getElem {n : Nat} {v : Word} {i : Nat} (h : i < (valueBytes n v).length) :
    (valueBytes n v)[i] = (v >>> (8 * i)).setWidth 8 := by
  rw [← Option.some_inj, ← List.getElem?_eq_getElem, valueBytes_getElem?, if_pos (by simpa using h)]

/-- Putting a value's `n` low bytes together again gives the value modulo `2 ^ 8n`. -/
theorem littleEndian_valueBytes (n : Nat) (v : Word) :
    littleEndian (valueBytes n v) = BitVec.ofNat 32 (v.toNat % 2 ^ (8 * n)) := by
  apply BitVec.eq_of_getLsbD_eq
  intro i hi
  rw [littleEndian_getLsbD _ hi, valueBytes_getElem?, BitVec.getLsbD_ofNat, Nat.testBit_mod_two_pow,
    BitVec.testBit_toNat]
  by_cases hn : i / 8 < n
  · simp [hn, hi, show i < 8 * n by omega, Nat.mod_lt, Nat.div_add_mod]
  · simp [hn, show ¬i < 8 * n by omega]

/-- The four bytes of a word make the word again. -/
theorem littleEndian_valueBytes_four (v : Word) : littleEndian (valueBytes 4 v) = v := by
  rw [littleEndian_valueBytes, Nat.mod_eq_of_lt v.isLt, BitVec.ofNat_toNat, BitVec.setWidth_eq]

/-- The bytes just written are read back. -/
theorem bytesFrom_setBytes (s : State) (base : Nat) {n : Nat} {bs : List Byte} (hn : bs.length = n) :
    (s.setBytes base bs).bytesFrom base n = bs :=
  List.ext_getElem (by simp [hn]) fun k _ hk => by rw [bytesFrom_getElem, byteAt_setBytes_inside hk]

/-! Where an access goes (R61 to R65). -/

/-- Each 4-aligned offset up to 0x28 is a register's (R61). -/
theorem regAt_isSome : ∀ a ≤ 0x28, a % 4 = 0 → (regAt a).isSome = true := by decide

theorem regOffset_mem_file (r : Reg) : regOffset r % 4 = 0 ∧ regOffset r ≤ 0x28 := by cases r <;> decide

/-- A buffer fits its page of the address map (R5, R61). -/
theorem windowCapacity_le (p : Params) (w : Window) : windowCapacity p w ≤ 0x1000 := by
  have := bufBytes_bounds p
  cases w <;> simp only [windowCapacity] <;> omega

/-- The access has a target, that is no bus error, exactly when it is legal (R62). -/
theorem legalAccess_iff_resolve (p : Params) (a n : Nat) : legalAccess p a n ↔ ∃ x, resolve p a n = some x := by
  constructor
  · rintro ⟨hn, hal, ⟨rfl, hr⟩ | ⟨hlo, hhi⟩ | ⟨hlo, hhi⟩ | ⟨hlo, hhi⟩⟩
    · obtain ⟨r, h⟩ := Option.isSome_iff_exists.1 (regAt_isSome a hr hal)
      exact ⟨_, regAt_offset h ▸ resolve_regOffset p r⟩
    · obtain ⟨k, rfl⟩ := Nat.exists_eq_add_of_le hlo
      exact ⟨_, resolve_windowAddr (w := .input) hn hal (by simp only [windowCapacity]; omega)⟩
    · obtain ⟨k, rfl⟩ := Nat.exists_eq_add_of_le hlo
      exact ⟨_, resolve_windowAddr (w := .output) hn hal (by simp only [windowCapacity]; omega)⟩
    · obtain ⟨k, rfl⟩ := Nat.exists_eq_add_of_le hlo
      exact ⟨_, resolve_windowAddr (w := .data) hn hal (by simp only [windowCapacity]; omega)⟩
  · rintro ⟨x, h⟩
    obtain ⟨hn, hal, ⟨r, -, rfl, rfl⟩ | ⟨w, k, -, rfl, hfit⟩⟩ := resolve_cases h
    · exact ⟨hn, hal, .inl ⟨rfl, (regOffset_mem_file r).2⟩⟩
    · refine ⟨hn, hal, .inr ?_⟩
      cases w <;> simp only [windowAddr, windowBase, windowCapacity, Config.inBase, Config.outBase,
        Config.dataBase] at hfit ⊢ <;> omega

theorem resolve_of_illegal {p : Params} {a n : Nat} (h : ¬legalAccess p a n) : resolve p a n = none := by
  rw [legalAccess_iff_resolve] at h
  exact Option.eq_none_iff_forall_ne_some.2 fun x hx => h ⟨x, hx⟩

/-- A legal access from 0x1000 on goes to the buffer in whose page of the address map it lies (R61, R65). -/
theorem resolve_window_of_legal {p : Params} {a n : Nat} (h : legalAccess p a n) (ha : 0x1000 ≤ a) :
    ∃ w k, resolve p a n = some (.window w k) ∧ a = windowAddr w k ∧
      (w = .output ↔ 0x2000 ≤ a ∧ a < 0x3000) ∧ (w = .data ↔ 0x3000 ≤ a) := by
  obtain ⟨x, hx⟩ := (legalAccess_iff_resolve p a n).1 h
  obtain ⟨hn, -, ⟨r, -, -, hr⟩ | ⟨w, k, rfl, haddr, hfit⟩⟩ := resolve_cases hx
  · have := regOffset_mem_file r
    omega
  · refine ⟨w, k, hx, haddr, ?_⟩
    have hcap := windowCapacity_le p w
    cases w <;>
      simp only [windowAddr, windowBase, Config.inBase, Config.outBase, Config.dataBase, reduceCtorEq, true_iff,
        false_iff] at haddr ⊢ <;>
      omega

/-! Reads (R66, R76). -/

/-- The target is in the running command's write set (R76). -/
def State.unstableAt (s : State) : Target → Bool
  | .reg r => s.regUnstable r
  | .window w _ => s.windowUnstable w

/-- What the target of a read of `n` bytes holds (R66). -/
def State.targetValue (s : State) (n : Nat) : Target → Word
  | .reg r => s.regValue r
  | .window w k => littleEndian (s.bytesFrom (windowAddr w k) n)

/-- A read of a target outside the running write set answers what the target holds and changes nothing (R66, R69). -/
theorem memRead_stable {a : Offset} {n : Nat} {s : State} {x : Target} (hr : resolve s.params a.toNat n = some x)
    (hx : s.unstableAt x = false) : memRead a n s = (.data (s.targetValue n x), s) := by
  cases x <;> simp only [State.unstableAt] at hx <;> simp [memRead, hr, hx, State.targetValue]

/-- A read of a target in the running write set answers the next free value, cut to the access's size (R76). -/
theorem memRead_unstable {a : Offset} {n : Nat} {s : State} {x : Target} (hr : resolve s.params a.toNat n = some x)
    (hx : s.unstableAt x = true) :
    memRead a n s = (.data (BitVec.ofNat 32 ((Config.busyRead s.freeReads).toNat % 2 ^ (8 * n))),
      { s with freeReads := s.freeReads + 1 }) := by
  rw [← littleEndian_valueBytes]
  cases x <;> simp only [State.unstableAt] at hx <;> simp [memRead, hr, hx, freeRead]

/-- A read without a target is a bus error (R62). -/
theorem memRead_unmapped {a : Offset} {n : Nat} {s : State} (hr : resolve s.params a.toNat n = none) :
    memRead a n s = (.busError, s) := by
  simp [memRead, hr]

/-- A read changes the index of the next free value only (R69). -/
theorem memRead_snd (a : Offset) (n : Nat) (s : State) :
    (memRead a n s).2 = { s with freeReads := (memRead a n s).2.freeReads } := by
  rcases memRead_state a n s with h | h <;> rw [h]

/-- No window is unspecified to reads while idle (R76). -/
theorem windowUnstable_idle {s : State} (h : s.busy = false) (w : Window) : s.windowUnstable w = false := by
  simp [State.windowUnstable, State.running, h]

/-! The write sets by opcode (R125). -/

@[simp] theorem opcode_decodeOp (op : Byte) : (decodeOp op).opcode = op := by
  unfold decodeOp
  split_ifs <;> simp_all [Instr.opcode]

theorem decodeOp_eq_decode_iff (op : Byte) : decodeOp op = .decode ↔ op = 0x01 :=
  ⟨fun h => by rw [← opcode_decodeOp op, h]; rfl, by rintro rfl; rfl⟩

theorem decodeOp_eq_encode_iff (op : Byte) : decodeOp op = .encode ↔ op = 0x02 :=
  ⟨fun h => by rw [← opcode_decodeOp op, h]; rfl, by rintro rfl; rfl⟩

theorem decodeOp_eq_crc_iff (op : Byte) : decodeOp op = .crc ↔ op = 0x03 :=
  ⟨fun h => by rw [← opcode_decodeOp op, h]; rfl, by rintro rfl; rfl⟩

/-- The windows in the write sets: DATA in DECODE's and OUT in ENCODE's. -/
theorem writesWindow_iff (i : Instr) (w : Window) :
    writesWindow i w = true ↔ (i = .decode ∧ w = .data) ∨ (i = .encode ∧ w = .output) := by
  cases i <;> simp [writesWindow]

/-- The registers in the write sets. -/
theorem writesReg_iff (i : Instr) (r : Reg) :
    writesReg i r = true ↔ (i = .decode ∧ r ∈ [Reg.func, .dataLen, .rxCrc, .calcCrc]) ∨
      (i = .encode ∧ r ∈ [Reg.outLen, .calcCrc]) ∨ (i = .crc ∧ r = .calcCrc) := by
  cases i <;> simp [writesReg]

/-- While the command of an opcode runs, DATA is unspecified for DECODE and OUT for ENCODE, and no other window is. -/
theorem windowUnstable_iff {s : State} {op : Byte} (hp : s.pendingOp = some op) (w : Window) :
    s.windowUnstable w = true ↔ s.busy = true ∧ ((op = 0x01 ∧ w = .data) ∨ (op = 0x02 ∧ w = .output)) := by
  cases hb : s.busy with
  | false => simp [windowUnstable_idle hb]
  | true =>
    rw [windowUnstable_busy hb hp, writesWindow_iff, decodeOp_eq_decode_iff, decodeOp_eq_encode_iff]
    simp

/-! Writes (R67). -/

/-- A protected write while a command runs is refused (R67). -/
theorem guarded_busy {s : State} (h : s.busy = true) (f : State → State) : s.guarded f = s.refuseWrite := by
  simp [State.guarded, h]

/-- The protected registers refuse a write while a command runs (R67). -/
theorem writeReg_busy {s : State} (h : s.busy = true) {r : Reg} (hr : r ∈ [Reg.cmd, .inLen, .func, .dataLen])
    (v : Word) : s.writeReg r v = s.refuseWrite := by
  simp only [List.mem_cons, List.not_mem_nil, or_false] at hr
  rcases hr with rfl | rfl | rfl | rfl <;> simp only [State.writeReg, guarded_busy h]

/-- IN and DATA refuse a write while a command runs (R67). -/
theorem writeWindow_busy {s : State} (h : s.busy = true) {w : Window} (hw : w ≠ .output) (k n : Nat) (v : Word) :
    s.writeWindow w k n v = s.refuseWrite := by
  cases w with
  | output => exact absurd rfl hw
  | input => simp only [State.writeWindow, guarded_busy h]
  | data => simp only [State.writeWindow, guarded_busy h]

/-- IN and DATA store a write's bytes while idle (R67). -/
theorem writeWindow_idle {s : State} (h : s.busy = false) {w : Window} (hw : w ≠ .output) (k n : Nat) (v : Word) :
    s.writeWindow w k n v = s.setBytes (windowAddr w k) (valueBytes n v) := by
  cases w with
  | output => exact absurd rfl hw
  | input => simp only [State.writeWindow, guarded_idle h]
  | data => simp only [State.writeWindow, guarded_idle h]

/-- A write whose target is a window is the window's write (R67). -/
theorem memWrite_window {a : Offset} {n : Nat} {s : State} {w : Window} {k : Nat}
    (hr : resolve s.params a.toNat n = some (.window w k)) (v : Word) :
    memWrite a n v s = (.accepted, s.writeWindow w k n v) := by
  simp only [memWrite, hr]

/-- A write without a target is a bus error (R62). -/
theorem memWrite_unmapped {a : Offset} {n : Nat} {s : State} (hr : resolve s.params a.toNat n = none) (v : Word) :
    memWrite a n v s = (.busError, s) := by
  simp only [memWrite, hr]

end Sys2Proof.Machine
end

section
/-! SUPPORT. The statements about host accesses: where a bus error is, what a read answers, and what a write stores. -/

namespace Sys2Proof.Machine

/-- Settles O29: an access has a target exactly when it is legal, and one without a target is a bus error. -/
theorem busErrorExactlyOnIllegalAccesses : Obligations.BusErrorExactlyOnIllegalAccesses := by
  intro a n v s
  refine ⟨fun h => ?_, fun h => ⟨memRead_unmapped (resolve_of_illegal h), memWrite_unmapped (resolve_of_illegal h) v⟩⟩
  obtain ⟨x, hx⟩ := (legalAccess_iff_resolve ..).1 h
  constructor
  · rcases memRead_response a n s with ⟨hd, -⟩ | ⟨-, hr⟩
    · exact hd
    · simp [hr] at hx
  · rcases memWrite_response a n v s with ⟨ha, -⟩ | ⟨-, hr⟩
    · exact ha
    · simp [hr] at hx

/-- A write to a protected register while a command runs is refused (R67). -/
theorem memWrite_protectedReg_busy {a : Offset} {n : Nat} {s : State} (hl : legalAccess s.params a.toNat n)
    (hb : s.busy = true) (ha : a ∈ [(0x008 : Offset), 0x010, 0x018, 0x01C]) (v : Word) :
    memWrite a n v s = (.accepted, s.refuseWrite) := by
  obtain ⟨r, hr, rfl⟩ : ∃ r, r ∈ [Reg.cmd, .inLen, .func, .dataLen] ∧ a = regSymbol r := by
    simp only [List.mem_cons, List.not_mem_nil, or_false] at ha
    rcases ha with rfl | rfl | rfl | rfl
    · exact ⟨.cmd, by simp, rfl⟩
    · exact ⟨.inLen, by simp, rfl⟩
    · exact ⟨.func, by simp, rfl⟩
    · exact ⟨.dataLen, by simp, rfl⟩
  obtain rfl : n = 4 := by
    have := regOffset_mem_file r
    rw [regSymbol_toNat] at hl
    obtain ⟨-, -, ⟨hn, -⟩ | h⟩ := hl <;> omega
  rw [memWrite_regSymbol, writeReg_busy hb hr]

/-- Settles O34: a protected target is a register or a byte of IN or DATA, told by its page of the address map. -/
theorem protectedWritesWhileBusyAreRefused : Obligations.ProtectedWritesWhileBusyAreRefused := by
  intro a n v s hl
  constructor
  · rintro hb (ha | ha)
    · exact memWrite_protectedReg_busy hl hb ha v
    · obtain ⟨w, k, hr, -, hout, -⟩ := resolve_window_of_legal hl (by omega)
      rw [memWrite_window hr, writeWindow_busy hb (mt hout.1 (by omega))]
      rfl
  · intro hlo hhi
    obtain ⟨w, k, hr, -, hout, -⟩ := resolve_window_of_legal hl (by omega)
    obtain rfl := hout.2 ⟨hlo, hhi⟩
    exact memWrite_window hr v

/-- The registers in the write set of the command of an opcode, as R125's table lists them. -/
def writeSetRegs (op : Byte) : List Reg :=
  if op = 0x01 then [.func, .dataLen, .rxCrc, .calcCrc]
  else if op = 0x02 then [.outLen, .calcCrc] else if op = 0x03 then [.calcCrc] else []

theorem writesReg_decodeOp_iff (op : Byte) (r : Reg) : writesReg (decodeOp op) r = true ↔ r ∈ writeSetRegs op := by
  rw [writesReg_iff, decodeOp_eq_decode_iff, decodeOp_eq_encode_iff, decodeOp_eq_crc_iff, writeSetRegs]
  split
  · next h => simp [h]
  · split
    · next h => simp [h]
    · split
      · next h => simp [h]
      · next h1 h2 h3 => simp only [h1, h2, h3, false_and, or_false, List.not_mem_nil]

/-- Settles O37: a register of the running write set is free to reads, and any other is stable. -/
theorem busyReadsOfTheWriteSetAreFree : Obligations.BusyReadsOfTheWriteSetAreFree := by
  intro s op hb hp r
  change memRead (regSymbol r) 4 s = if r ∈ writeSetRegs op then _ else _
  have hunstable : s.regUnstable r = true ↔ r ∈ writeSetRegs op := by
    rw [regUnstable_busy hb hp, writesReg_decodeOp_iff]
  split
  · next hr =>
    have htarget : resolve s.params (regSymbol r).toNat 4 = some (.reg r) := by
      rw [regSymbol_toNat, resolve_regOffset]
    rw [memRead_unstable htarget (hunstable.2 hr), ← littleEndian_valueBytes, littleEndian_valueBytes_four]
  · next hr => exact memRead_regSymbol (Bool.eq_false_iff.2 (mt hunstable.1 hr))

/-- Settles O38: outside the running write set the window is stable, and its value is little-endian. -/
theorem windowReadsAreLittleEndian : Obligations.WindowReadsAreLittleEndian := by
  intro a n s hl ha hrun
  obtain ⟨w, k, hr, haddr, hout, hdata⟩ := resolve_window_of_legal hl ha
  obtain ⟨hn, -⟩ := hl
  have hstable : s.windowUnstable w = false := by
    rcases hrun with hidle | ⟨op, hp, hdec, henc⟩
    · exact windowUnstable_idle hidle w
    · rw [Bool.eq_false_iff, Ne, windowUnstable_iff hp]
      rintro ⟨-, ⟨hop, hw⟩ | ⟨hop, hw⟩⟩
      · have := hdata.1 hw
        have := hdec hop
        omega
      · have := hout.1 hw
        have := henc hop
        omega
  refine ⟨_, memRead_stable hr hstable, ?_, fun i hi => ?_⟩
  · simpa [State.targetValue] using littleEndian_lt (s.bytesFrom (windowAddr w k) n)
  · rw [haddr, State.targetValue, littleEndian_byte (by rw [bytesFrom_length]; omega) (by simpa using hi),
      bytesFrom_getElem]

/-- Settles O57: DATA is in the write set of DECODE, OUT in that of ENCODE. -/
theorem busyWindowReadsOfTheWriteSetAreFree : Obligations.BusyWindowReadsOfTheWriteSetAreFree := by
  intro a n op s hl hb hp hop
  obtain ⟨w, k, hr, -, hout, hdata⟩ := resolve_window_of_legal hl (by omega)
  refine memRead_unstable hr ((windowUnstable_iff hp w).2 ⟨hb, ?_⟩)
  exact hop.imp (fun ⟨hdec, ha⟩ => ⟨hdec, hdata.2 ha⟩) (fun ⟨henc, ha⟩ => ⟨henc, hout.2 ha⟩)

/-- Settles O39: the write stores the value's bytes at the target, where an idle read finds them again. -/
theorem windowWriteThenReadBack : Obligations.WindowWriteThenReadBack := by
  intro a n v s hl hidle ha
  obtain ⟨w, k, hr, haddr, hout, -⟩ := resolve_window_of_legal hl (by omega)
  have hlen := valueBytes_length n v
  refine ⟨s.setBytes (windowAddr w k) (valueBytes n v), ?_, rfl, fun i hi => ?_, fun x hx => ?_, ?_⟩
  · rw [memWrite_window hr, writeWindow_idle hidle (mt hout.1 (by omega))]
  · rw [haddr, byteAt_setBytes_inside (by omega)]
    exact valueBytes_getElem _
  · exact byteAt_setBytes_outside (by omega)
  · have hstable : (s.setBytes (windowAddr w k) (valueBytes n v)).windowUnstable w = false :=
      windowUnstable_idle hidle w
    rw [memRead_stable (s := s.setBytes _ _) hr hstable, State.targetValue, bytesFrom_setBytes _ _ hlen,
      littleEndian_valueBytes]

/-- A read outside the running write set answers the same whatever free values were used up before it (R69). -/
theorem memRead_freeReads {a : Offset} {n : Nat} {s : State}
    (h : ∀ x, resolve s.params a.toNat n = some x → s.unstableAt x = false) (j : Nat) :
    memRead a n { s with freeReads := j } = ((memRead a n s).1, { s with freeReads := j }) := by
  cases hr : resolve s.params a.toNat n with
  | none => rw [memRead_unmapped hr, memRead_unmapped (s := { s with freeReads := j }) hr]
  | some x =>
    have hx := h x hr
    have hx' : State.unstableAt { s with freeReads := j } x = false := by cases x <;> exact hx
    have hv : State.targetValue { s with freeReads := j } n x = s.targetValue n x := by
      cases x with
      | reg r => cases r <;> rfl
      | window w k => rfl
    rw [memRead_stable hr hx, memRead_stable (s := { s with freeReads := j }) hr hx', hv]

/-- Settles O40: every read only moves the index of the next free value, which a stable target's value does not read. -/
theorem readsHaveNoSideEffects : Obligations.ReadsHaveNoSideEffects := by
  intro a n s
  refine ⟨by rw [memRead_snd], fun hreg hwin => ?_⟩
  have hstable : ∀ x, resolve s.params a.toNat n = some x → s.unstableAt x = false := by
    intro x hx
    obtain ⟨hn, -, ⟨r, rfl, -, haddr⟩ | ⟨w, k, rfl, haddr, hfit⟩⟩ := resolve_cases hx
    · exact hreg r (by simp [regSymbol, haddr])
    · unfold windowAddr at haddr
      exact hwin w (by omega) (by omega)
  have hread := memRead_freeReads hstable
  refine ⟨congrArg Prod.snd (hread s.freeReads), fun b m => ?_⟩
  rw [memRead_snd b m s]
  exact hread _

end Sys2Proof.Machine
end

section
/-! SUPPORT. The host's turn: the accesses of WR and RD and what they leave in the host's log, and what no turn of it
changes of a running command. Which steps keep the byte at an offset. -/

namespace Sys2Proof.Machine

/-! One statement of a host program (R100). -/

/-- A host that can go on performs the statement at its program's head (R20). -/
theorem hostTurn_statement {s : State} {stmt : HostStmt} {rest : List HostStmt} (hs : s.host.status = .running)
    (hp : s.host.program = stmt :: rest) : hostTurn s = hostStatement stmt rest s := by
  simp only [hostTurn, hs, hp]

/-- A legal write is accepted, and leaves the host's own state to the host (R62). -/
theorem memWrite_of_legal {a : Offset} {n : Nat} {s : State} (hl : legalAccess s.params a.toNat n) (v : Word) :
    ∃ t, memWrite a n v s = (.accepted, t) ∧ t.host = s.host :=
  ⟨_, Prod.ext ((busErrorExactlyOnIllegalAccesses a n v s).1 hl).2 rfl, memWrite_host a n v s⟩

/-- A legal read answers data, and leaves the host's own state to the host (R62). -/
theorem memRead_of_legal {a : Offset} {n : Nat} {s : State} (hl : legalAccess s.params a.toNat n) :
    ∃ d t, memRead a n s = (.data d, t) ∧ t.host = s.host := by
  obtain ⟨d, hd⟩ := ((busErrorExactlyOnIllegalAccesses a n 0 s).1 hl).1
  exact ⟨d, _, Prod.ext hd rfl, memRead_host a n s⟩

/-- A WR that is accepted performs its access and goes on (R67, R100). -/
theorem hostWrite_of_accepted {s t : State} {n : Nat} {a : Offset} {v : HostValue} {w : Word}
    (hv : s.host.value v = some w) (hm : memWrite a n w s = (.accepted, t)) (rest : List HostStmt) :
    hostWrite n a v rest s = (t.logAccess (.write n a w) .accepted).continueHost rest := by
  simp only [hostWrite, hv, hm]

/-- A WR whose access is not legal ends the program (R62, R100). -/
theorem hostWrite_of_illegal {s : State} {n : Nat} {a : Offset} {v : HostValue} {w : Word}
    (hv : s.host.value v = some w) (hl : ¬legalAccess s.params a.toNat n) (rest : List HostStmt) :
    hostWrite n a v rest s = (s.logAccess (.write n a w) .busError).endHost .busError := by
  simp only [hostWrite, hv, memWrite_unmapped (resolve_of_illegal hl)]

/-- An RD that gets data gives it to its variable and goes on (R66, R100). -/
theorem hostRead_of_data {s t : State} {n : Nat} {a : Offset} {d : Word} (hr : memRead a n s = (.data d, t)) (x : Nat)
    (rest : List HostStmt) :
    hostRead n a x rest s = ((t.logAccess (.read n a) (.data d)).setVar x d).continueHost rest := by
  simp only [hostRead, hr]

/-- An RD whose access is not legal ends the program (R62, R100). -/
theorem hostRead_of_illegal {s : State} {n : Nat} {a : Offset} (hl : ¬legalAccess s.params a.toNat n) (x : Nat)
    (rest : List HostStmt) :
    hostRead n a x rest s = (s.logAccess (.read n a) .busError).endHost .busError := by
  simp only [hostRead, memRead_unmapped (resolve_of_illegal hl)]

/-- The logged access joins the program's encoding in its written form (R102). -/
theorem encoding_logAccess (x : Transaction) (r : Response) (s : State) :
    (s.logAccess x r).host.encoding = s.host.encoding ++ [Transaction.render x] := by
  simp [HostAgent.encoding]

/-- After an RD its variable holds the data, and every other variable what it held. -/
theorem value_after_read (x y : Nat) (d : Word) (tr : Transaction) (r : Response) (rest : List HostStmt) (t : State) :
    (((t.logAccess tr r).setVar x d).continueHost rest).host.value (.var y) =
      if x = y then some d else t.host.value (.var y) :=
  lookupCell_storeCell ..

/-- Settles O46: each statement performs one access, whose response says how the program goes on. -/
theorem hostStatementsPerformTheirAccess : Obligations.HostStatementsPerformTheirAccess := by
  intro s n a rest hs
  refine ⟨fun v w hp hv => ?_, fun x hp => ?_⟩
  · have hturn : hostTurn s = hostWrite n a v rest s := hostTurn_statement hs hp
    rw [hturn]
    by_cases hl : legalAccess s.params a.toNat n
    · obtain ⟨t, hm, hhost⟩ := memWrite_of_legal hl w
      rw [hostWrite_of_accepted hv hm, hm]
      refine ⟨?_, by simp [hhost], fun _ => ⟨rfl, by simp [hhost, hs], by simp [hhost], by simp [← hhost]⟩,
        fun h => absurd hl h⟩
      exact (encoding_logAccess ..).trans (by rw [hhost])
    · rw [hostWrite_of_illegal hv hl]
      exact ⟨encoding_logAccess .., rfl, fun h => absurd h hl, fun _ => ⟨rfl, rfl, rfl⟩⟩
  · have hturn : hostTurn s = hostRead n a x rest s := hostTurn_statement hs hp
    rw [hturn]
    by_cases hl : legalAccess s.params a.toNat n
    · obtain ⟨d, t, hm, hhost⟩ := memRead_of_legal hl
      rw [hostRead_of_data hm, hm]
      refine ⟨?_, ?_, fun h => absurd hl h⟩
      · exact (encoding_logAccess (.read n a) (.data d) t).trans (by rw [hhost])
      · rintro d' t' ⟨⟩
        refine ⟨rfl, by simp [hhost, hs], by simp [hhost], by rw [value_after_read, if_pos rfl], fun y hy => ?_,
          by simp [← hhost]⟩
        rw [value_after_read, if_neg hy.symm, hhost]
    · rw [hostRead_of_illegal hl, memRead_unmapped (resolve_of_illegal hl)]
      refine ⟨encoding_logAccess .., ?_, fun _ => ⟨rfl, rfl, rfl⟩⟩
      rintro d t ⟨⟩

/-! What the host's turn keeps. -/

/-- `t` has the running command of `s` and its operands (R79). -/
structure SameOperands (s t : State) : Prop where
  pendingOp : t.pendingOp = s.pendingOp
  cmdOp : t.cmdOp = s.cmdOp
  inLen : t.inLen = s.inLen
  func : t.func = s.func
  dataLen : t.dataLen = s.dataLen
  bytes : SameBytes s t

theorem SameOperands.refl (s : State) : SameOperands s s := ⟨rfl, rfl, rfl, rfl, rfl, fun _ => rfl⟩

/-- While a command runs no host write stores in an operand: only CTRL.IE and the status bits are writable (R67, R79). -/
theorem memWrite_sameOperands {s : State} (hb : s.busy = true) (a : Offset) (n : Nat) (v : Word) :
    SameOperands s (memWrite a n v s).2 := by
  rcases memWrite_cases a n v s with e | e | ⟨-, -, e⟩ | e | ⟨hidle, -⟩
  · rw [e]; exact .refl s
  · rw [e]; exact { SameOperands.refl s with }
  · rw [e]; exact { SameOperands.refl s with }
  · rw [e]; exact { SameOperands.refl s with }
  · simp [hb] at hidle

theorem hostTurn_sameOperands {s : State} (hb : s.busy = true) : SameOperands s (hostTurn s) :=
  hostTurn_keeps (SameOperands.refl s) (fun _ _ ht => { ht with }) { SameOperands.refl s with }
    (memWrite_sameOperands hb)

/-- Settles O42: a host turn keeps the command, its operands and the results. -/
theorem hostStepsKeepARunningCommandsOperands : Obligations.HostStepsKeepARunningCommandsOperands := by
  intro s hb hs
  have hbusy : s.dropTurn.busy = true := hb
  have hop := hostTurn_sameOperands hbusy
  have hres := hostTurn_sameResults s.dropTurn
  exact ⟨_, step_host hs, hostTurn_busy hbusy, hostTurn_not_done (s := s.dropTurn), hop.pendingOp, hop.cmdOp, hop.inLen,
    ⟨hop.func, hop.dataLen, hres.outLen⟩, hres.checksums, hop.bytes⟩

/-! Bytes no step writes (R71). -/

/-- Only a reset counts the resets up (R242). -/
theorem step_epoch {s t : State} (h : step s = .next t) (hr : s.nextTurn ≠ .reset) : t.epoch = s.epoch := by
  rcases step_cases h with ⟨-, rfl⟩ | ⟨hreset, -⟩ | ⟨-, -, rfl⟩ | ⟨-, -, op, -, hexec⟩
  · exact (hostTurn_sameResults s.dropTurn).epoch
  · exact absurd hreset hr
  · rfl
  · obtain ⟨-, -, -, -, -, hepoch, -⟩ := exec_untouched hexec
    exact hepoch

/-- A byte is read from the memory's entry at its offset and the reset count alone (R71). -/
theorem byteAt_of_sameEntry {s t : State} {a : Nat} (hm : lookupCell t.mem a = lookupCell s.mem a)
    (he : t.epoch = s.epoch) : t.byteAt a = s.byteAt a := by
  simp only [State.byteAt, hm, he]

/-- Settles O50: the entry is as before, and so is the reset count. -/
theorem unwrittenBytesAreFixedUntilWritten : Obligations.UnwrittenBytesAreFixedUntilWritten := by
  intro s t a h hr hm
  have he := step_epoch h hr
  exact ⟨byteAt_of_sameEntry hm he, he⟩

end Sys2Proof.Machine
end

section
/-! SUPPORT. The opcode table: each ILLEGAL row is a range of opcodes, and the command an opcode decodes to is the one
well-formed command with that opcode. The statements about command words and about the ILLEGAL commands. -/

namespace Sys2Proof

/-! The rows as ranges of opcodes (R92). -/

/-- The mask of an ILLEGAL row keeps the opcode's bits from `k` on, and its match is bit `k` alone: the row is the opcodes
from `2 ^ k` to below `2 ^ (k + 1)`. -/
theorem and_rowMask_eq_iff (op : Byte) {k : Nat} (hk : k < 8) :
    op &&& BitVec.allOnes 8 <<< k = 1#8 <<< k ↔ 2 ^ k ≤ op.toNat ∧ op.toNat < 2 ^ (k + 1) := by
  rw [← BitVec.shiftLeft_ushiftRight, ← BitVec.toNat_inj]
  have hop := op.isLt
  interval_cases k <;> simp [Nat.shiftRight_eq_div_pow, Nat.shiftLeft_eq] <;> omega

theorem row04_iff (op : Byte) : op &&& 0xFC = 0x04 ↔ 0x04 ≤ op.toNat ∧ op.toNat < 0x08 :=
  and_rowMask_eq_iff op (k := 2) (by decide)

theorem row08_iff (op : Byte) : op &&& 0xF8 = 0x08 ↔ 0x08 ≤ op.toNat ∧ op.toNat < 0x10 :=
  and_rowMask_eq_iff op (k := 3) (by decide)

theorem row10_iff (op : Byte) : op &&& 0xF0 = 0x10 ↔ 0x10 ≤ op.toNat ∧ op.toNat < 0x20 :=
  and_rowMask_eq_iff op (k := 4) (by decide)

theorem row20_iff (op : Byte) : op &&& 0xE0 = 0x20 ↔ 0x20 ≤ op.toNat ∧ op.toNat < 0x40 :=
  and_rowMask_eq_iff op (k := 5) (by decide)

theorem row40_iff (op : Byte) : op &&& 0xC0 = 0x40 ↔ 0x40 ≤ op.toNat ∧ op.toNat < 0x80 :=
  and_rowMask_eq_iff op (k := 6) (by decide)

theorem row80_iff (op : Byte) : op &&& 0x80 = 0x80 ↔ 0x80 ≤ op.toNat ∧ op.toNat < 0x100 :=
  and_rowMask_eq_iff op (k := 7) (by decide)

/-- The decoder's case analysis by the opcode as a number (R91, R92). -/
theorem decodeOp_eq_ranges (op : Byte) :
    decodeOp op =
      if op.toNat = 0 then .nop else if op.toNat = 1 then .decode else if op.toNat = 2 then .encode
      else if op.toNat = 3 then .crc else if op.toNat < 0x08 then .illegal04 op else if op.toNat < 0x10 then .illegal08 op
      else if op.toNat < 0x20 then .illegal10 op else if op.toNat < 0x40 then .illegal20 op
      else if op.toNat < 0x80 then .illegal40 op else .illegal80 op := by
  simp only [decodeOp, row04_iff, row08_iff, row10_iff, row20_iff, row40_iff]
  simp only [← BitVec.toNat_inj]
  grind

/-- The decoder answers well-formed commands only. -/
theorem wellFormed_decodeOp (op : Byte) : (decodeOp op).wellFormed = true := by
  have hop := op.isLt
  rw [decodeOp_eq_ranges]
  split_ifs <;>
    simp only [Instr.wellFormed, beq_iff_eq, row04_iff, row08_iff, row10_iff, row20_iff, row40_iff, row80_iff] <;> omega

/-- A well-formed command is the one its opcode decodes to. -/
theorem decodeOp_opcode {i : Instr} (h : i.wellFormed = true) : decodeOp i.opcode = i := by
  rw [decodeOp_eq_ranges]
  cases i <;>
    simp only [Instr.wellFormed, beq_iff_eq, row04_iff, row08_iff, row10_iff, row20_iff, row40_iff, row80_iff] at h
  case nop | decode | encode | crc => rfl
  all_goals
    simp only [Instr.opcode]
    grind

/-- From 0x04 on every opcode is illegal (R92). -/
theorem illegal_decodeOp {op : Byte} (h : 4 ≤ op.toNat) : 4 ≤ (decodeOp op).rowIndex := by
  rw [decodeOp_eq_ranges]
  split_ifs <;> simp only [Instr.rowIndex] <;> omega

/-! The rows of the table (R90). -/

/-- Every row looks at OP only, so words with the same OP are selected by the same rows. -/
theorem selects_congr {r : Row} (hr : r ∈ opcodeTable) {v w : Word} (h : opField v = opField w) :
    r.selects v = r.selects w := by
  have hmask : ∀ r ∈ opcodeTable, r.mask = (r.mask.setWidth 8).setWidth 32 := by decide
  have hand (u : Word) : u &&& r.mask = (opField u).setWidth 32 &&& r.mask := by
    rw [hmask r hr]
    ext i hi
    simp [opField]
    grind
  rw [Row.selects, Row.selects, hand v, hand w, h]

/-- Two rows that select one word are the same row: no two rows' matches agree where both their masks look. -/
theorem row_eq_of_selects {r r' : Row} (hr : r ∈ opcodeTable) (hr' : r' ∈ opcodeTable) {w : Word}
    (h : r.selects w = true) (h' : r'.selects w = true) : r = r' := by
  have hdisjoint : ∀ r ∈ opcodeTable, ∀ r' ∈ opcodeTable, r.pattern &&& r'.mask = r'.pattern &&& r.mask → r = r' := by
    decide
  rw [Row.selects, beq_iff_eq] at h h'
  exact hdisjoint r hr r' hr' (by rw [← h, ← h', BitVec.and_assoc, BitVec.and_assoc, BitVec.and_comm r.mask])

/-- The word of a well-formed command selects the command's own row. -/
theorem encodeWord_selects (i : Instr) : Laws.EncodedWordInRow.Statement i := by
  cases i with
  | nop => exact Laws.EncodedWordInRow.nop
  | decode => exact Laws.EncodedWordInRow.decode
  | encode => exact Laws.EncodedWordInRow.encode
  | crc => exact Laws.EncodedWordInRow.crc
  | illegal04 op => exact Laws.EncodedWordInRow.illegal04 op
  | illegal08 op => exact Laws.EncodedWordInRow.illegal08 op
  | illegal10 op => exact Laws.EncodedWordInRow.illegal10 op
  | illegal20 op => exact Laws.EncodedWordInRow.illegal20 op
  | illegal40 op => exact Laws.EncodedWordInRow.illegal40 op
  | illegal80 op => exact Laws.EncodedWordInRow.illegal80 op

/-- Every word selects the row of the command it decodes to. -/
theorem decodeWord_row_selects (w : Word) :
    ∃ r, opcodeTable[(decodeWord w).rowIndex]? = some r ∧ r.selects w = true := by
  obtain ⟨r, hr, hsel⟩ := encodeWord_selects (decodeWord w) (wellFormed_decodeOp _)
  have hop : opField (encodeWord (decodeWord w)) = opField w := by
    rw [opField_encodeWord, decodeWord, Machine.opcode_decodeOp]
  exact ⟨r, hr, selects_congr (List.mem_of_getElem? hr) hop ▸ hsel⟩

/-! The statements about
command words and about the ILLEGAL commands. -/

/-- Settles O1: the decoder reads back the word, whose OP is the command's opcode. -/
theorem decodeOfEncodeIsTheCommand : Obligations.DecodeOfEncodeIsTheCommand := by
  intro i rest hi
  rw [encode, decode_bytesOfWord, decodeWord, opField_encodeWord, decodeOp_opcode hi]

/-- Settles O2: the decoded command's row is selected, and any other selected row would be the same row. -/
theorem everyWordSelectsOneRow : Obligations.EveryWordSelectsOneRow := by
  intro w
  obtain ⟨r, hr, hsel⟩ := decodeWord_row_selects w
  refine ⟨wellFormed_decodeOp _, Machine.opcode_decodeOp _, ⟨r, hr, hsel⟩, fun k q hq => ⟨fun hqsel => ?_, ?_⟩⟩
  · obtain rfl := row_eq_of_selects (List.mem_of_getElem? hq) (List.mem_of_getElem? hr) hqsel hsel
    have hnodup : opcodeTable.Nodup := by decide
    exact (List.getElem?_inj (List.getElem?_eq_some_iff.1 hq).1 hnodup).1 (hq.trans hr.symm)
  · rintro rfl
    obtain rfl := Option.some_inj.1 (hr.symm.trans hq)
    exact hsel

/-- Settles O4: the decoder evaluated on each word. -/
theorem sampleWordsDecode : Obligations.SampleWordsDecode := by
  unfold Obligations.SampleWordsDecode
  decide

end Sys2Proof

namespace Sys2Proof.Machine

/-- Every completion keeps what is not its own, whatever code it finishes with (R122). -/
theorem completes_complete (s : State) (c : ResultCode) (d : BitVec 4) :
    Completes s (s.complete c d) (ResultCode.bits c) d := by
  constructor <;> rfl

/-- Settles O8: the opcodes from 0x04 on are the ILLEGAL rows', and those rows' commands only complete. -/
theorem illegalCommandsCompleteWithCodeSevenOnly : Obligations.IllegalCommandsCompleteWithCodeSevenOnly := by
  refine ⟨fun op => illegal_decodeOp, fun op s i hi => ?_⟩
  have hrow : 4 ≤ i.rowIndex := by
    simp only [List.mem_cons, List.not_mem_nil, or_false] at hi
    rcases hi with rfl | rfl | rfl | rfl | rfl | rfl <;> simp [Instr.rowIndex]
  exact ⟨_, exec_illegal hrow s, completes_complete s .illegalCommand 0, ⟨rfl, rfl, rfl⟩, ⟨rfl, rfl⟩,
    fun _ => rfl⟩

end Sys2Proof.Machine
end

section
/-! SUPPORT. The written form of bus transactions (R102): its parts have fixed lengths and each tells its number. -/

namespace Sys2Proof.Machine

/-- Different digits are written differently. -/
theorem hexDigit_inj {d e : Nat} (hd : d < 16) (he : e < 16) (h : hexDigit d = hexDigit e) : d = e := by
  have hnodup : "0123456789ABCDEF".toList.Nodup := by decide
  have hlen : "0123456789ABCDEF".toList.length = 16 := by decide
  rw [hexDigit, hexDigit, List.getD_eq_getElem _ _ (by omega), List.getD_eq_getElem _ _ (by omega)] at h
  exact (hnodup.getElem_inj_iff).1 h

@[simp] theorem hexDigits_length (k v : Nat) : (hexDigits k v).length = k := by
  induction k generalizing v with
  | zero => rfl
  | succ k ih => simp [hexDigits, ih]

/-- The `k` lowest digits tell a number below `16 ^ k`. -/
theorem hexDigits_inj {k v w : Nat} (hv : v < 16 ^ k) (hw : w < 16 ^ k) (h : hexDigits k v = hexDigits k w) : v = w := by
  induction k generalizing v w with
  | zero => omega
  | succ k ih =>
    obtain ⟨hhigh, hlow⟩ := List.append_inj h (by simp)
    have hdiv : v / 16 = w / 16 := ih (by omega) (by omega) hhigh
    have hmod : v % 16 = w % 16 := hexDigit_inj (by omega) (by omega) (List.singleton_inj.1 hlow)
    omega

/-- An access size is told by its decimal digits. -/
theorem toDigits_inj {n m : Nat} (h : Nat.toDigits 10 n = Nat.toDigits 10 m) : n = m := by
  simpa using congrArg (Nat.ofDigitChars 10 · 0) h

/-- What both forms begin with: the kind of the access, its size and its offset. -/
def accessText (kind : Char) (n : Nat) (a : Offset) : List Char :=
  kind :: Nat.toDigits 10 n ++ ' ' :: hexDigits 4 a.toNat

theorem render_write (n : Nat) (a : Offset) (v : Word) :
    Transaction.render (.write n a v) = accessText 'W' n a ++ ' ' :: hexDigits (2 * n) v.toNat := rfl

theorem render_read (n : Nat) (a : Offset) : Transaction.render (.read n a) = accessText 'R' n a := rfl

theorem accessText_length {n : Nat} (hn : n < 10) (kind : Char) (a : Offset) : (accessText kind n a).length = 7 := by
  simp [accessText, Nat.toDigits_of_lt_base hn]

/-- The kind, the size and the offset are told by what is written of them. -/
theorem accessText_inj {c d : Char} {n m : Nat} {a b : Offset} (hn : n < 10) (hm : m < 10)
    (h : accessText c n a = accessText d m b) : c = d ∧ n = m ∧ a = b := by
  obtain ⟨hsize, hoffset⟩ := List.append_inj h (by simp [Nat.toDigits_of_lt_base hn, Nat.toDigits_of_lt_base hm])
  injection hsize with hkind hsize
  injection hoffset with _ hoffset
  exact ⟨hkind, toDigits_inj hsize, BitVec.eq_of_toNat_eq (hexDigits_inj a.isLt b.isLt hoffset)⟩

/-- Settles O5: the access is told first, and its size fixes how much is written of the value. -/
theorem transactionTextDeterminesTransaction : Obligations.TransactionTextDeterminesTransaction := by
  intro x y hlegal h
  cases x with
  | read n a =>
    have hn : n = 1 ∨ n = 2 ∨ n = 4 := hlegal (.read n a) (by simp)
    cases y with
    | read m b =>
      have hm : m = 1 ∨ m = 2 ∨ m = 4 := hlegal (.read m b) (by simp)
      rw [render_read, render_read] at h
      obtain ⟨-, rfl, rfl⟩ := accessText_inj (by omega) (by omega) h
      rfl
    | write m b w => simp [Transaction.render] at h
  | write n a v =>
    obtain ⟨hn, hv⟩ : (n = 1 ∨ n = 2 ∨ n = 4) ∧ v.toNat < 2 ^ (8 * n) := hlegal (.write n a v) (by simp)
    cases y with
    | read m b => simp [Transaction.render] at h
    | write m b w =>
      obtain ⟨hm, hw⟩ : (m = 1 ∨ m = 2 ∨ m = 4) ∧ w.toNat < 2 ^ (8 * m) := hlegal (.write m b w) (by simp)
      have hn10 : n < 10 := by omega
      have hm10 : m < 10 := by omega
      rw [render_write, render_write] at h
      obtain ⟨haccess, hvalue⟩ := List.append_inj h (by rw [accessText_length hn10, accessText_length hm10])
      obtain ⟨-, rfl, rfl⟩ := accessText_inj hn10 hm10 haccess
      injection hvalue with _ hvalue
      have hdigits : 2 ^ (8 * n) = 16 ^ (2 * n) := by
        rw [show 8 * n = 4 * (2 * n) by omega, pow_mul]
        rfl
      rw [BitVec.eq_of_toNat_eq (hexDigits_inj (hdigits ▸ hv) (hdigits ▸ hw) hvalue)]

end Sys2Proof.Machine
end

section
/-! SUPPORT. The polls and expectations of a host program: what the read of a POLL and the comparison of an EXPECT leave. -/

namespace Sys2Proof.Machine

/-- A POLL that gets data logs its read, and leaves the statement exactly when the masked data is the wanted value
(R66, R100). -/
theorem hostPoll_of_data {s t : State} {a : Offset} {m v : HostValue} {mask want d : Word}
    (hm : s.host.value m = some mask) (hv : s.host.value v = some want) (hr : memRead a 4 s = (.data d, t))
    (rest : List HostStmt) :
    hostPoll a m v rest s = (t.logAccess (.read 4 a) (.data d)).continueHost
      (if d &&& mask = want then rest else t.host.program) := by
  simp only [hostPoll, hm, hv, hr]
  split <;> rfl

/-- A POLL whose read is not legal ends the program (R62, R100). -/
theorem hostPoll_of_illegal {s : State} {a : Offset} {m v : HostValue} {mask want : Word}
    (hm : s.host.value m = some mask) (hv : s.host.value v = some want) (hl : ¬legalAccess s.params a.toNat 4)
    (rest : List HostStmt) :
    hostPoll a m v rest s = (s.logAccess (.read 4 a) .busError).endHost .busError := by
  simp only [hostPoll, hm, hv, memRead_unmapped (resolve_of_illegal hl)]

/-- An EXPECT of values read earlier goes on exactly when they are equal (R100). -/
theorem hostExpect_of_values {s : State} {x : Nat} {v : HostValue} {d want : Word}
    (hx : s.host.value (.var x) = some d) (hv : s.host.value v = some want) (rest : List HostStmt) :
    hostExpect x v rest s = if d = want then s.continueHost rest else s.endHost .expectFailed := by
  simp only [hostExpect, hx, hv]

/-- Settles O47: a POLL's turn is one read, and an EXPECT's is a comparison. -/
theorem pollAndExpectFollowTheNotation : Obligations.PollAndExpectFollowTheNotation := by
  intro s a rest hs
  refine ⟨fun m v mask want hp hm hv => ?_, fun x v d want hx hv hp => ?_⟩
  · have hturn : hostTurn s = hostPoll a m v rest s := hostTurn_statement hs hp
    rw [hturn]
    by_cases hl : legalAccess s.params a.toNat 4
    · obtain ⟨d, t, hr, hhost⟩ := memRead_of_legal hl
      rw [hostPoll_of_data hm hv hr, hr, hhost]
      refine ⟨?_, by simp [hhost], ?_, fun h => absurd hl h⟩
      · exact (encoding_logAccess (.read 4 a) (.data d) t).trans (by rw [hhost])
      · rintro d' t' ⟨⟩
        exact ⟨by simp [hhost, hs], rfl, by simp [hhost], by simp [← hhost]⟩
    · rw [hostPoll_of_illegal hm hv hl, memRead_unmapped (resolve_of_illegal hl)]
      refine ⟨encoding_logAccess .., rfl, ?_, fun _ => ⟨rfl, rfl⟩⟩
      rintro d t ⟨⟩
  · have hturn : hostTurn s = hostExpect x v rest s := hostTurn_statement hs hp
    rw [hturn, hostExpect_of_values hx hv]
    split
    · next heq => exact ⟨rfl, rfl, fun _ => ⟨rfl, hs⟩, fun hne => absurd heq hne⟩
    · next hne => exact ⟨rfl, rfl, fun heq => absurd heq hne, fun _ => rfl⟩

end Sys2Proof.Machine
end

section
/-! SUPPORT. Runs of a host program from an idle block: the steps of LOADIN, LOADDATA and RUN, one after the other. -/

namespace Sys2Proof.Machine

/-! Runs. -/

theorem run_succ {s t : State} (h : step s = .next t) (k : Nat) :
    Sys2Proof.core.run (k + 1) s = Sys2Proof.core.run k t := by
  simp only [Host.Core.run, Sys2Proof.core, h]

/-- A run goes on from where its first steps ended. -/
theorem run_add {s t : State} {m : Nat} (h : Sys2Proof.core.run m s = .next t) (k : Nat) :
    Sys2Proof.core.run (m + k) s = Sys2Proof.core.run k t := by
  induction m generalizing s with
  | zero => injection h with h; rw [h, Nat.zero_add]
  | succ m ih =>
    cases hstep : step s with
    | next u =>
      rw [run_succ hstep] at h
      rw [Nat.add_right_comm, run_succ hstep, ih h]
    | fault r => simp [Host.Core.run, Sys2Proof.core, hstep] at h
    | refused r => simp [Host.Core.run, Sys2Proof.core, hstep] at h

/-! Steps of an idle block (log 1). -/

/-- The block is idle, no turn is scheduled, and the host can go on with the program. -/
structure State.Ready (s : State) (program : List HostStmt) : Prop where
  idle : s.busy = false
  schedule : s.schedule = []
  status : s.host.status = .running
  program : s.host.program = program

theorem dropTurn_of_empty {s : State} (h : s.schedule = []) : s.dropTurn = s := by
  rw [State.dropTurn, h, List.tail_nil, ← h]

/-- With no turn scheduled the host moves while the block is idle. -/
theorem State.Ready.step {s : State} {stmt : HostStmt} {rest : List HostStmt} (hs : s.Ready (stmt :: rest)) :
    step s = .next (hostStatement stmt rest s) := by
  have hturn : s.nextTurn = .host := by simp [State.nextTurn, hs.schedule, hs.idle]
  rw [step_host hturn, dropTurn_of_empty hs.schedule, hostTurn_statement hs.status hs.program]

/-- With no turn scheduled the engine moves while a command runs (R121, R124). -/
theorem step_busy {s : State} {op : Byte} (hb : s.busy = true) (hsched : s.schedule = []) (hp : s.pendingOp = some op) :
    step s = exec (decodeOp op) s := by
  have hturn : s.nextTurn = .engine := by simp [State.nextTurn, hsched, hb]
  rw [Machine.step, hturn, dropTurn_of_empty hsched]
  simp only [takeTurn, engineTurn, hb, hp, if_true]

/-- An accepted WR of a number leaves the access's state, with the host at the next statement. -/
theorem State.Ready.step_wr {s t : State} {n : Nat} {a : Offset} {v : Word} {rest : List HostStmt}
    (hs : s.Ready (.wr n a (.num v) :: rest)) (hm : memWrite a n v s = (.accepted, t)) :
    ∃ h : HostAgent, h.program = rest ∧ h.status = .running ∧ Machine.step s = .next { t with host := h } := by
  have hhost : t.host = s.host := by rw [← memWrite_host a n v s, hm]
  have hturn : hostStatement (.wr n a (.num v)) rest s = _ := hostWrite_of_accepted (v := .num v) rfl hm rest
  exact ⟨_, rfl, by simp [hhost, hs.status], hs.step.trans (congrArg _ hturn)⟩

/-! LOADIN and LOADDATA (R101). -/

theorem windowSymbol_toNat {p : Params} {w : Window} {k : Nat} (hk : k < windowCapacity p w) :
    (windowSymbol w k).toNat = windowAddr w k := by
  have hcap := windowCapacity_le p w
  rw [windowSymbol, BitVec.toNat_ofNat, Nat.mod_eq_of_lt]
  cases w <;> simp only [windowAddr, windowBase, Config.inBase, Config.outBase, Config.dataBase] <;> omega

/-- A byte write at the symbol of a byte of IN or DATA stores the byte while idle (R67). -/
theorem memWrite_windowSymbol {s : State} {w : Window} {k : Nat} (hidle : s.busy = false) (hw : w ≠ .output)
    (hk : k < windowCapacity s.params w) (b : Byte) :
    memWrite (windowSymbol w k) 1 (b.setWidth 32) s = (.accepted, s.setBytes (windowAddr w k) [b]) := by
  have htarget : resolve s.params (windowSymbol w k).toNat 1 = some (.window w k) := by
    rw [windowSymbol_toNat hk]
    exact resolve_windowAddr (.inl rfl) (Nat.mod_one _) hk
  rw [memWrite_window htarget, writeWindow_idle hidle hw]
  simp [valueBytes]

/-- The byte writes of a load store the bytes one after the other, a step each. -/
theorem run_writeBytes {w : Window} (hw : w ≠ .output) {bs : List Byte} {k : Nat} {s : State} {rest : List HostStmt}
    (hs : s.Ready (writeBytesStmts w k bs ++ rest)) (hfit : k + bs.length ≤ windowCapacity s.params w) :
    ∃ h : HostAgent, h.program = rest ∧ h.status = .running ∧
      Sys2Proof.core.run bs.length s = .next { s.setBytes (windowAddr w k) bs with host := h } := by
  induction bs generalizing k s with
  | nil => exact ⟨s.host, hs.program, hs.status, rfl⟩
  | cons b bs ih =>
    rw [List.length_cons] at hfit
    obtain ⟨g, hprog, hstatus, hstep⟩ := hs.step_wr (memWrite_windowSymbol hs.idle hw (by omega) b)
    obtain ⟨h, hprog, hstatus, hrun⟩ := ih (k := k + 1) (s := { s.setBytes (windowAddr w k) [b] with host := g })
      ⟨hs.idle, hs.schedule, hstatus, hprog⟩ (by simpa [Nat.add_assoc, Nat.add_comm] using hfit)
    exact ⟨h, hprog, hstatus, (run_succ hstep _).trans hrun⟩

/-- A load stores its bytes and then writes its register. -/
theorem run_load {w : Window} (hw : w ≠ .output) {bs : List Byte} {s : State} {r : Reg} {v : Word} {rest : List HostStmt}
    (hs : s.Ready (writeBytesStmts w 0 bs ++ [.wr 4 (regSymbol r) (.num v)] ++ rest))
    (hfit : bs.length ≤ windowCapacity s.params w) :
    ∃ g h : HostAgent, h.program = rest ∧ h.status = .running ∧ Sys2Proof.core.run (bs.length + 1) s =
      .next { State.writeReg r v { s.setBytes (windowBase w) bs with host := g } with host := h } := by
  rw [List.append_assoc] at hs
  obtain ⟨g, hprog, hstatus, hbytes⟩ := run_writeBytes hw hs (by omega)
  have hready : State.Ready { s.setBytes (windowAddr w 0) bs with host := g } (.wr 4 (regSymbol r) (.num v) :: rest) :=
    ⟨hs.idle, hs.schedule, hstatus, hprog⟩
  obtain ⟨h, hprog, hstatus, hlength⟩ := hready.step_wr (memWrite_regSymbol r v _)
  exact ⟨g, h, hprog, hstatus, (run_add hbytes 1).trans (run_succ hlength 0)⟩

theorem lengthField_ofNat {n : Nat} (h : n ≤ 4096) : (lengthField (BitVec.ofNat 32 n)).toNat = n := by
  simp only [lengthField, BitVec.toNat_setWidth, BitVec.toNat_ofNat]
  omega

/-- A number of bytes that fits IN is a legal IN_LEN, stored while idle (R32). -/
theorem writeReg_inLen {s : State} {n : Nat} (hidle : s.busy = false) (hn : n ≤ s.params.bufBytes) :
    s.writeReg .inLen (BitVec.ofNat 32 n) = { s with inLen := lengthField (BitVec.ofNat 32 n) } := by
  have hcap := bufBytes_bounds s.params
  rw [State.writeReg, guarded_idle hidle, State.writeInLen, lengthField_ofNat (by omega), if_neg (by omega)]

/-- A number of bytes that fits DATA is a legal DATA_LEN, stored while idle (R35). -/
theorem writeReg_dataLen {s : State} {n : Nat} (hidle : s.busy = false) (hn : n ≤ s.params.maxData.val) :
    s.writeReg .dataLen (BitVec.ofNat 32 n) = { s with dataLen := lengthField (BitVec.ofNat 32 n) } := by
  have hcap := bufBytes_bounds s.params
  rw [State.writeReg, guarded_idle hidle, State.writeDataLen, lengthField_ofNat (by omega), if_neg (by omega)]

/-- Settles O48: a load is a run of byte writes and the write of its length, which is legal. -/
theorem loadsPlaceBytesAndLength : Obligations.LoadsPlaceBytesAndLength := by
  intro s bs rest hidle hsched hstatus
  have hcap := bufBytes_bounds s.params
  constructor
  · intro hfit hprog
    obtain ⟨g, h, hrest, hrunning, hrun⟩ := run_load (w := .input) (by simp) ⟨hidle, hsched, hstatus, hprog⟩ hfit
    rw [writeReg_inLen (s := { s.setBytes _ bs with host := g }) hidle hfit] at hrun
    exact ⟨_, hrun, hrest, hrunning, lengthField_ofNat (by omega), fun k hk => byteAt_setBytes_inside hk,
      fun a ha => byteAt_setBytes_outside ha⟩
  · intro hfit hprog
    obtain ⟨g, h, hrest, hrunning, hrun⟩ := run_load (w := .data) (by simp) ⟨hidle, hsched, hstatus, hprog⟩ hfit
    rw [writeReg_dataLen (s := { s.setBytes _ bs with host := g }) hidle hfit] at hrun
    exact ⟨_, hrun, hrest, hrunning, lengthField_ofNat (by omega), fun k hk => byteAt_setBytes_inside hk,
      fun a ha => byteAt_setBytes_outside ha⟩

/-! RUN (R101). -/

/-- No command reads or changes the HOST agent (R20). -/
theorem exec_host {i : Instr} {s t : State} (h : exec i s = .next t) (g : HostAgent) :
    exec i { s with host := g } = .next { t with host := g } := by
  rcases exec_cases h with ⟨rfl, rfl⟩ | ⟨rfl, hdec⟩ | ⟨rfl, rfl⟩ | ⟨rfl, rfl⟩ | ⟨hi, rfl⟩
  · rfl
  · rcases execDecode_cases hdec with ⟨hl, rfl⟩ | ⟨hl, hc, rfl⟩ | ⟨hl, hc, hk, rfl⟩ | ⟨hl, hc, hk, rfl⟩
    · exact execDecode_short (s := { s with host := g }) hl
    · exact execDecode_delimiter (s := { s with host := g }) hl hc
    · exact execDecode_mismatch (s := { s with host := g }) hl hc hk
    · exact execDecode_ok (s := { s with host := g }) hl hc hk
  · rfl
  · rfl
  · exact exec_illegal hi _

/-- WAIT's mask finds BUSY = 0 in STATUS while the block is idle (R26, R101). -/
theorem status_and_one {s : State} (h : s.busy = false) : s.regValue .status &&& 1 = 0 := by
  have hbit : s.statusWord.getLsbD 0 = false := (statusWord_getLsbD s 0).trans h
  exact BitVec.and_one_eq_setWidth_ofBool_getLsbD.trans (by rw [State.regValue, hbit]; rfl)

/-- A WAIT goes on at once while the block is idle. -/
theorem State.Ready.step_wait {s : State} {rest : List HostStmt} (hs : s.Ready (waitIdle ++ rest)) :
    ∃ h : HostAgent, h.program = rest ∧ h.status = .running ∧ Machine.step s = .next { s with host := h } := by
  have hturn : hostStatement (.poll (regSymbol .status) (.num 1) (.num 0)) rest s = _ :=
    hostPoll_of_data (m := .num 1) (v := .num 0) rfl rfl (memRead_regSymbol (regUnstable_status s)) rest
  rw [if_pos (status_and_one hs.idle)] at hturn
  have hready : s.Ready (.poll (regSymbol .status) (.num 1) (.num 0) :: rest) := hs
  refine ⟨_, rfl, ?_, hready.step.trans (congrArg _ hturn)⟩
  exact hs.status

/-- Settles O49: the write to CMD issues, the engine's turn completes, and the poll sees BUSY = 0. -/
theorem runIssuesAndWaits : Obligations.RunIssuesAndWaits := by
  intro s op rest hidle hsched hstatus hprog
  have hready : s.Ready (.wr 4 (regSymbol .cmd) (.num (op.setWidth 32)) :: (waitIdle ++ rest)) :=
    ⟨hidle, hsched, hstatus, hprog⟩
  have hwrite : memWrite (regSymbol .cmd) 4 (op.setWidth 32) s = (.accepted, State.issue op s) := by
    rw [memWrite_regSymbol, State.writeReg, guarded_idle hidle]
    simp [opField]
  obtain ⟨g, hprog, hstatus, hissue⟩ := hready.step_wr hwrite
  obtain ⟨u, hexec⟩ := exec_next (decodeOp op) (State.issue op s)
  obtain ⟨-, hop, -, -, -, -, -, husched, huhost, hubusy, hudone, -⟩ := exec_untouched hexec
  have hengine : step { State.issue op s with host := g } = .next { u with host := g } :=
    (step_busy (s := { State.issue op s with host := g }) rfl hsched rfl).trans (exec_host hexec g)
  have hwaiting : State.Ready { u with host := g } (waitIdle ++ rest) := ⟨hubusy, husched.trans hsched, hstatus, hprog⟩
  obtain ⟨h, hprog, hstatus, hwait⟩ := hwaiting.step_wait
  have hrun : Sys2Proof.core.run 3 s = .next { u with host := h } := by
    rw [run_succ hissue, run_succ hengine, run_succ hwait]
    rfl
  exact ⟨_, hrun, hprog, hstatus, hop, hubusy, hudone, u, hexec, by rw [← State.issue_host op s, ← huhost]⟩

end Sys2Proof.Machine
end

section
/-! SUPPORT. The command protocol: what an issue and a refused issue do, which locations a command leaves alone, and how
a running command comes to its completion. -/

namespace Sys2Proof.Machine

/-! The step that ends a command (R121, R122). -/

/-- The decoder reads the command from the lowest of a word's bytes (R64, R90). -/
theorem decode_fourBytes (op b1 b2 b3 : Byte) (rest : List Byte) :
    decode (op :: b1 :: b2 :: b3 :: rest) = .ok (decodeOp op, rest) := by
  rw [decode, decodeWord, opField_wordOfBytes]

/-- The engine's turn runs the command of PENDING_OP (R121). -/
theorem step_engine {s : State} {op : Byte} (ht : s.nextTurn = .engine) (hb : s.busy = true)
    (hp : s.pendingOp = some op) : step s = exec (decodeOp op) s.dropTurn := by
  simp [step, ht, takeTurn, engineTurn, hb, hp]

/-- The reset's turn resets the block (R240). -/
theorem step_reset {s : State} (ht : s.nextTurn = .reset) : step s = .next s.dropTurn.resetBlock := by
  simp only [step, ht, takeTurn]

/-- The engine's turn and a reset's turn both end a running command (R122, R241). -/
theorem step_ends_command {s : State} {op : Byte} (hb : s.busy = true) (hp : s.pendingOp = some op)
    (ht : s.nextTurn = .engine ∨ s.nextTurn = .reset) : ∃ u, step s = .next u ∧ u.busy = false := by
  rcases ht with ht | ht
  · obtain ⟨u, hu⟩ := exec_next (decodeOp op) s.dropTurn
    obtain ⟨-, -, -, -, -, -, -, -, -, hidle, -⟩ := exec_untouched hu
    exact ⟨u, (step_engine ht hb hp).trans hu, hidle⟩
  · exact ⟨_, step_reset ht, rfl⟩

/-- Settles O6: the decoder reads the command from the latched byte, and the engine's turn runs it. -/
theorem engineStepRunsTheDecodedCommand : Obligations.EngineStepRunsTheDecodedCommand := by
  intro s op b1 b2 b3 i ht hb hp hi
  obtain rfl : decodeOp op = i := by simpa [decode_fourBytes] using hi
  exact step_engine ht hb hp

/-- Settles O7: NOP is a completion and nothing else. -/
theorem nopCompletesWithOkOnly : Obligations.NopCompletesWithOkOnly := fun s =>
  ⟨s.complete .ok 0, rfl, completes_complete s .ok 0, ⟨rfl, rfl, rfl⟩, ⟨rfl, rfl⟩, fun _ => rfl⟩

/-! The write to CMD (R120, R123). -/

/-- Settles O30: the write to CMD while idle is the issue of its field OP. -/
theorem cmdWriteWhileIdleIssues : Obligations.CmdWriteWhileIdleIssues := by
  intro v s hidle
  have hwrite : memWrite 0x008 4 v s = (.accepted, State.issue (v.setWidth 8) s) := by
    rw [show (0x008 : Offset) = regSymbol .cmd from rfl, memWrite_regSymbol, State.writeReg, guarded_idle hidle, opField]
  exact ⟨hwrite, by rw [hwrite]; rfl, illegal_decodeOp⟩

/-- No command reads or changes WERR, so a refused write before its completion and one after it are the same (R28, R123). -/
theorem exec_refuseWrite {i : Instr} {s t : State} (h : exec i s = .next t) :
    exec i s.refuseWrite = .next t.refuseWrite := by
  cases i with
  | decode =>
    rcases execDecode_cases h with ⟨hl, rfl⟩ | ⟨hl, hc, rfl⟩ | ⟨hl, hc, hk, rfl⟩ | ⟨hl, hc, hk, rfl⟩
    · exact execDecode_short (s := s.refuseWrite) hl
    · exact execDecode_delimiter (s := s.refuseWrite) hl hc
    · exact execDecode_mismatch (s := s.refuseWrite) hl hc hk
    · exact execDecode_ok (s := s.refuseWrite) hl hc hk
  | _ => injection h with h; rw [← h]; rfl

/-- Settles O31: CMD refuses the write, and a refused write leaves every command its outcome. -/
theorem cmdWriteWhileBusyIsRefused : Obligations.CmdWriteWhileBusyIsRefused := by
  intro v s hb
  refine ⟨(memWrite_regSymbol .cmd v s).trans (by rw [writeReg_busy hb (by simp)]; rfl), fun i => ?_⟩
  obtain ⟨t, ht⟩ := exec_next i s
  exact ⟨t, ht, exec_refuseWrite ht⟩

/-! What a command leaves alone (R125). -/

/-- A completion writes no register but STATUS (R122). -/
theorem regValue_complete {r : Reg} (hr : r ≠ .status) (c : ResultCode) (d : BitVec 4) (s : State) :
    (s.complete c d).regValue r = s.regValue r := by
  cases r with
  | status => exact absurd rfl hr
  | _ => rfl

/-- DECODE's checksums go to registers of its write set (R164, R165). -/
theorem regValue_stageChecksums {r : Reg} (hw : writesReg .decode r = false) (s : State) :
    s.stageChecksums.regValue r = s.regValue r := by
  cases r with
  | rxCrc | calcCrc => simp [writesReg] at hw
  | _ => rfl

/-- DECODE's frame goes to registers of its write set, and to DATA (R167). -/
theorem regValue_stageFrame {r : Reg} (hw : writesReg .decode r = false) (s : State) :
    s.stageFrame.regValue r = s.regValue r := by
  cases r with
  | func | dataLen => simp [writesReg] at hw
  | _ => rfl

/-- ENCODE's length and checksum go to registers of its write set (R192, R196). -/
theorem regValue_stageWire {r : Reg} (hw : writesReg .encode r = false) (s : State) :
    s.stageWire.regValue r = s.regValue r := by
  cases r with
  | outLen | calcCrc => simp [writesReg] at hw
  | _ => rfl

/-- CRC's checksum goes to the register of its write set (R143). -/
theorem regValue_calcCrc {r : Reg} (hw : writesReg .crc r = false) (s : State) (c : Half) :
    State.regValue { s with calcCrc := c } r = s.regValue r := by
  cases r with
  | calcCrc => simp [writesReg] at hw
  | _ => rfl

/-- A register outside the write set of a command, other than STATUS, holds after it what it held (R125). -/
theorem exec_regValue {i : Instr} {s t : State} (h : exec i s = .next t) {r : Reg} (hr : r ≠ .status)
    (hw : writesReg i r = false) : t.regValue r = s.regValue r := by
  have hdone := regValue_complete hr
  rcases exec_cases h with ⟨-, rfl⟩ | ⟨rfl, hdec⟩ | ⟨rfl, rfl⟩ | ⟨rfl, rfl⟩ | ⟨-, rfl⟩
  · exact hdone ..
  · rcases execDecode_cases hdec with ⟨-, rfl⟩ | ⟨-, -, rfl⟩ | ⟨-, -, -, rfl⟩ | ⟨-, -, -, rfl⟩
    · exact hdone ..
    · exact hdone ..
    · rw [hdone, regValue_stageChecksums hw]
    · rw [hdone, regValue_stageFrame hw, regValue_stageChecksums hw]
  · rw [hdone, regValue_stageWire hw]
  · rw [hdone, regValue_calcCrc hw]
  · exact hdone ..

/-- The bytes of IN and OUT lie below DATA (R61). -/
theorem windowAddr_lt_dataBase {p : Params} {w : Window} {k : Nat} (hw : w ≠ .data) (hk : k < windowCapacity p w) :
    windowAddr w k < Config.dataBase := by
  have hcap := windowCapacity_le p w
  cases w with
  | data => exact absurd rfl hw
  | input => simp only [windowAddr, windowBase, Config.inBase, Config.dataBase]; omega
  | output => simp only [windowAddr, windowBase, Config.outBase, Config.dataBase]; omega

/-- The bytes of IN lie below OUT and those of DATA above every frame that fits OUT (R61). -/
theorem windowAddr_outside_output {p : Params} {w : Window} {k n : Nat} (hw : w ≠ .output)
    (hk : k < windowCapacity p w) (hn : n ≤ p.bufBytes) :
    windowAddr w k < Config.outBase ∨ Config.outBase + n ≤ windowAddr w k := by
  have hcap := windowCapacity_le p w
  have hbuf := bufBytes_bounds p
  cases w with
  | output => exact absurd rfl hw
  | input => simp only [windowAddr, windowBase, Config.inBase, Config.outBase]; omega
  | data => simp only [windowAddr, windowBase, Config.outBase, Config.dataBase]; omega

/-- A byte of a window outside the write set of a command holds after it what it held: DECODE writes from DATA on, and
ENCODE's frame fits OUT (R125, R167, R194). -/
theorem exec_windowByte {i : Instr} {s t : State} (h : exec i s = .next t)
    (hlen : s.dataLen.toNat ≤ s.params.maxData.val) {w : Window} {k : Nat} (hw : writesWindow i w = false)
    (hk : k < windowCapacity s.params w) : t.byteAt (windowAddr w k) = s.byteAt (windowAddr w k) := by
  rcases exec_cases h with ⟨-, rfl⟩ | ⟨rfl, hdec⟩ | ⟨rfl, rfl⟩ | ⟨-, rfl⟩ | ⟨-, rfl⟩
  · rfl
  · rcases execDecode_cases hdec with ⟨-, rfl⟩ | ⟨-, -, rfl⟩ | ⟨-, -, -, rfl⟩ | ⟨-, -, -, rfl⟩
    · rfl
    · rfl
    · rfl
    · have hbelow := windowAddr_lt_dataBase (by simpa [writesWindow] using hw) hk
      rw [byteAt_complete, byteAt_stageFrame, byteAt_setBytes_outside (.inl hbelow), byteAt_stageChecksums]
  · have hfits : s.frame.wire.length ≤ s.params.bufBytes := by
      rw [wire_length, frame_data_length, Params.bufBytes]; omega
    have houtside := windowAddr_outside_output (by simpa [writesWindow] using hw) hk hfits
    rw [byteAt_complete, byteAt_stageWire, byteAt_setBytes_outside houtside]
  · rfl
  · rfl

/-- Settles O23: register by register and byte by byte. -/
theorem commandsChangeOnlyTheirWriteSet : Obligations.CommandsChangeOnlyTheirWriteSet := by
  intro i s hlen
  obtain ⟨t, ht⟩ := exec_next i s
  exact ⟨t, ht, fun r hr hw => exec_regValue ht hr hw, fun w k hw hk => exec_windowByte ht hlen hw hk⟩

/-! Progress (R124). -/

theorem nextTurn_of_scheduled {s : State} {turn : Turn} {turns : List Turn} (h : s.schedule = turn :: turns) :
    s.nextTurn = turn := by
  simp only [State.nextTurn, h]

/-- With no turn scheduled the engine has the turn while a command runs (log 1). -/
theorem nextTurn_of_empty_busy {s : State} (h : s.schedule = []) (hb : s.busy = true) : s.nextTurn = .engine := by
  simp [State.nextTurn, h, hb]

/-- A running command stays, through the host's turns at the front of the schedule, until the engine or a reset has the
turn; the engine has it when the schedule is used up (R79, R124). -/
theorem run_to_end_of_command {s : State} {op : Byte} (hb : s.busy = true) (hp : s.pendingOp = some op) :
    ∃ k t, k ≤ s.schedule.length ∧ Sys2Proof.core.run k s = .next t ∧ t.busy = true ∧ t.pendingOp = some op ∧
      (t.nextTurn = .engine ∨ t.nextTurn = .reset) := by
  induction hturns : s.schedule generalizing s with
  | nil => exact ⟨0, s, Nat.le_refl _, rfl, hb, hp, .inl (nextTurn_of_empty_busy hturns hb)⟩
  | cons turn turns ih =>
    have hturn := nextTurn_of_scheduled hturns
    cases turn with
    | engine => exact ⟨0, s, Nat.zero_le _, rfl, hb, hp, .inl hturn⟩
    | reset => exact ⟨0, s, Nat.zero_le _, rfl, hb, hp, .inr hturn⟩
    | host =>
      have hbusy : s.dropTurn.busy = true := hb
      have hpending : (hostTurn s.dropTurn).pendingOp = some op := (hostTurn_sameOperands hbusy).pendingOp.trans hp
      have hrest : (hostTurn s.dropTurn).schedule = turns := by
        rw [(hostTurn_sameResults s.dropTurn).schedule, State.dropTurn_schedule, hturns, List.tail_cons]
      obtain ⟨k, t, hk, hrun, ht⟩ := ih (hostTurn_busy hbusy) hpending hrest
      exact ⟨k + 1, t, Nat.succ_le_succ hk, (run_succ (step_host hturn) k).trans hrun, ht⟩

/-- Settles O56: the invariant gives the running command its opcode, the command stays until the engine or a reset has
the turn, and that turn ends it. -/
theorem everyIssuedCommandCompletes : Obligations.EveryIssuedCommandCompletes := by
  intro s hs hb
  have hp : s.pendingOp = some s.cmdOp := by rw [hs.pending_matches, if_pos hb]
  obtain ⟨k, t, hk, hrun, htb, htp, hturn⟩ := run_to_end_of_command hb hp
  obtain ⟨u, hstep, hidle⟩ := step_ends_command htb htp hturn
  exact ⟨k, t, u, hk, hrun, htb, htp.trans hp.symm, hturn, hstep, hidle⟩

end Sys2Proof.Machine
end

section
/-! SUPPORT. The CRC unit: the bits of a step, which is linear and invertible, and what runs of the register over
sequences take from that; the CRC command. -/

namespace Sys2Proof.Machine

/-! One step and the eight steps of a byte (R140, R145). -/

/-- With a 0 shifted out, a step is a shift (R140). -/
theorem crcStep_of_zero_out {c : Half} (h : c.getLsbD 0 = false) : crcStep c = c >>> 1 := by
  rw [crcStep, h, if_neg Bool.false_ne_true]

/-- With a 1 shifted out, the polynomial is XORed in (R140). -/
theorem crcStep_of_one_out {c : Half} (h : c.getLsbD 0 = true) : crcStep c = (c >>> 1) ^^^ Config.crcPoly := if_pos h

/-- A step bit by bit: the next bit, and the polynomial where the bit shifted out is 1 (R140). -/
theorem crcStep_getLsbD (c : Half) (k : Nat) :
    (crcStep c).getLsbD k = (c.getLsbD (k + 1) ^^ (c.getLsbD 0 && Config.crcPoly.getLsbD k)) := by
  cases hout : c.getLsbD 0 with
  | false => rw [crcStep_of_zero_out hout, BitVec.getLsbD_ushiftRight, Bool.false_and, Bool.xor_false, Nat.add_comm]
  | true =>
    rw [crcStep_of_one_out hout, BitVec.getLsbD_xor, BitVec.getLsbD_ushiftRight, Bool.true_and, Nat.add_comm]

/-- The polynomial's highest bit is set, so the bit shifted out comes back at the top (R145). -/
theorem crcStep_getLsbD_top (c : Half) : (crcStep c).getLsbD 15 = c.getLsbD 0 := by
  have htop : Config.crcPoly.getLsbD 15 = true := by decide
  rw [crcStep_getLsbD, BitVec.getLsbD_of_ge c 16 (Nat.le_refl _), htop, Bool.and_true, Bool.false_xor]

theorem crcStep_xor (c d : Half) : crcStep (c ^^^ d) = crcStep c ^^^ crcStep d := by
  apply BitVec.eq_of_getLsbD_eq
  intro k _
  simp only [crcStep_getLsbD, BitVec.getLsbD_xor, Bool.and_xor_distrib_right, Bool.xor_assoc, Bool.xor_left_comm]

/-- The result tells the bit shifted out, hence whether the polynomial was XORed in, hence the other bits (R145). -/
theorem crcStep_inj {c d : Half} (h : crcStep c = crcStep d) : c = d := by
  have hout : c.getLsbD 0 = d.getLsbD 0 := by rw [← crcStep_getLsbD_top, h, crcStep_getLsbD_top]
  apply BitVec.eq_of_getLsbD_eq
  intro k _
  cases k with
  | zero => exact hout
  | succ k =>
    have hbit := congrArg (·.getLsbD k) h
    simpa only [crcStep_getLsbD, hout, Bool.xor_left_inj] using hbit

theorem crcSteps_xor (n : Nat) (c d : Half) : crcSteps n (c ^^^ d) = crcSteps n c ^^^ crcSteps n d := by
  induction n generalizing c d with
  | zero => rfl
  | succ n ih => rw [crcSteps, crcStep_xor, ih, crcSteps, crcSteps]

theorem crcSteps_inj {n : Nat} {c d : Half} (h : crcSteps n c = crcSteps n d) : c = d := by
  induction n generalizing c d with
  | zero => exact h
  | succ n ih => exact crcStep_inj (ih h)

/-- While only zeros are shifted out, the steps are a shift. -/
theorem crcSteps_eq_shift {n : Nat} {c : Half} (h : ∀ k < n, c.getLsbD k = false) : crcSteps n c = c >>> n := by
  induction n generalizing c with
  | zero => simp [crcSteps]
  | succ n ih =>
    have hrest : ∀ k < n, (c >>> 1).getLsbD k = false := fun k hk => by
      rw [BitVec.getLsbD_ushiftRight, Nat.add_comm]; exact h (k + 1) (by omega)
    rw [crcSteps, crcStep_of_zero_out (h 0 (by omega)), ih hrest, ← BitVec.shiftRight_add, Nat.add_comm]

/-! A byte into the register (R140, R144, R145). -/

theorem crcByte_xor (c d : Half) (a b : Byte) : crcByte (c ^^^ d) (a ^^^ b) = crcByte c a ^^^ crcByte d b := by
  rw [crcByte, crcByte, crcByte, ← crcSteps_xor, BitVec.setWidth_xor]
  ac_rfl

/-- From a zero register the loop runs over the byte alone. -/
theorem crcByte_zero_left (b : Byte) : crcByte 0 b = crcSteps 8 (b.setWidth 16) :=
  congrArg (crcSteps 8) BitVec.zero_xor

@[simp] theorem crcByte_zero : crcByte 0 0 = 0 := by decide

/-- The byte being known, the register is recovered. -/
theorem crcByte_left_inj {c d : Half} {b : Byte} (h : crcByte c b = crcByte d b) : c = d :=
  (BitVec.xor_left_inj _).1 (crcSteps_inj h)

/-- The register being known, the byte is recovered. -/
theorem crcByte_right_inj {c : Half} {a b : Byte} (h : crcByte c a = crcByte c b) : a = b := by
  have hwide : a.setWidth 16 = b.setWidth 16 := (BitVec.xor_right_inj _).1 (crcSteps_inj h)
  simpa using congrArg (BitVec.setWidth 8) hwide

/-- A register's high byte in place, with the low byte cleared. -/
def highByte (c : Half) : Half := c >>> 8 <<< 8

/-- A register is its high byte and its low byte. -/
theorem highByte_xor_low (c : Half) : highByte c ^^^ (c.setWidth 8).setWidth 16 = c := by
  apply BitVec.eq_of_getLsbD_eq
  intro k hk
  by_cases hlow : k < 8
  · simp [highByte, hlow, hk]
  · simp [highByte, hlow, hk, Nat.add_sub_cancel' (Nat.le_of_not_lt hlow)]

/-- The eight steps only shift the high byte down. -/
theorem crcSteps_highByte (c : Half) : crcSteps 8 (highByte c) = c >>> 8 := by
  have hzeros : ∀ k < 8, (highByte c).getLsbD k = false := fun k hk => by simp [highByte, hk]
  rw [crcSteps_eq_shift hzeros]
  apply BitVec.eq_of_getLsbD_eq
  intro k hk
  by_cases hbyte : 8 + k < 16
  · simp [highByte, hbyte]
  · simp [highByte, hbyte, BitVec.getLsbD_of_ge c (8 + k) (by omega)]

/-- The step of a table-driven implementation: only the low byte, XORed with the input, is looked up (R140). -/
theorem crcByte_eq_table (c : Half) (b : Byte) : crcByte c b = (c >>> 8) ^^^ crcByte 0 (c.setWidth 8 ^^^ b) := by
  calc crcByte c b
      = crcByte (highByte c ^^^ (c.setWidth 8).setWidth 16) b := by rw [highByte_xor_low]
    _ = crcSteps 8 (highByte c ^^^ (c.setWidth 8 ^^^ b).setWidth 16) := by
        rw [crcByte, BitVec.xor_assoc, BitVec.setWidth_xor]
    _ = (c >>> 8) ^^^ crcByte 0 (c.setWidth 8 ^^^ b) := by rw [crcSteps_xor, crcSteps_highByte, crcByte_zero_left]

/-- The register's own low byte cancels it: what is left is the high byte (R144). -/
theorem crcByte_own_low (c : Half) : crcByte c (c.setWidth 8) = c >>> 8 := by
  have hcancel : crcByte 0 (c.setWidth 8 ^^^ c.setWidth 8) = 0 := by rw [BitVec.xor_self]; exact crcByte_zero
  rw [crcByte_eq_table, hcancel]
  exact BitVec.xor_zero

/-! Sequences of bytes (R140, R144, R145). -/

@[simp] theorem crcFrom_nil (c : Half) : crcFrom c [] = c := rfl

@[simp] theorem crcFrom_cons (c : Half) (b : Byte) (s : List Byte) : crcFrom c (b :: s) = crcFrom (crcByte c b) s := rfl

theorem crcFrom_append (c : Half) (s t : List Byte) : crcFrom c (s ++ t) = crcFrom (crcFrom c s) t :=
  List.foldl_append

theorem crc16_append (s t : List Byte) : crc16 (s ++ t) = crcFrom (crc16 s) t := crcFrom_append ..

/-- Two runs over sequences of equal length differ by the run over the differences (R145). -/
theorem crcFrom_xor {s t : List Byte} (h : s.length = t.length) (c d : Half) :
    crcFrom c s ^^^ crcFrom d t = crcFrom (c ^^^ d) (List.zipWith (· ^^^ ·) s t) := by
  induction s generalizing t c d with
  | nil =>
    obtain rfl := List.length_eq_zero_iff.1 h.symm
    rfl
  | cons a s ih =>
    cases t with
    | nil => cases h
    | cons b t =>
      rw [List.zipWith_cons_cons, crcFrom_cons, crcFrom_cons, crcFrom_cons, ih (Nat.succ.inj h), crcByte_xor]

/-- The sequence being known, the initial register is recovered (R145). -/
theorem crcFrom_left_inj {s : List Byte} {c d : Half} (h : crcFrom c s = crcFrom d s) : c = d := by
  induction s generalizing c d with
  | nil => exact h
  | cons b s ih => exact crcByte_left_inj (ih h)

/-- A run tells any one byte of its sequence from the others: the register differs from that byte on (R145). -/
theorem crcFrom_byte_inj {c : Half} {p q : List Byte} {a b : Byte}
    (h : crcFrom c (p ++ a :: q) = crcFrom c (p ++ b :: q)) : a = b := by
  rw [crcFrom_append, crcFrom_append, crcFrom_cons, crcFrom_cons] at h
  exact crcByte_right_inj (crcFrom_left_inj h)

@[simp] theorem crcFrom_zeros (n : Nat) : crcFrom 0 (List.replicate n 0) = 0 := by
  induction n with
  | zero => rfl
  | succ n ih => rw [List.replicate_succ, crcFrom_cons, crcByte_zero, ih]

/-- `crc0` of a sequence with one non-zero byte, which differs in that byte from a sequence of zeros (R145). -/
theorem crcFrom_zero_one_byte_ne (m n : Nat) {e : Byte} (he : e ≠ 0) :
    crcFrom 0 (List.replicate m 0 ++ e :: List.replicate n 0) ≠ 0 := by
  have hzeros : crcFrom 0 (List.replicate m 0 ++ 0 :: List.replicate n 0) = 0 := by
    rw [← List.replicate_succ, crcFrom_append, crcFrom_zeros, crcFrom_zeros]
  exact fun h => he (crcFrom_byte_inj (h.trans hzeros.symm))

/-- Settles O28: each part is a law of the step, of the byte or of the sequence. -/
theorem crcDetectsEveryOneByteChange : Obligations.CrcDetectsEveryOneByteChange := by
  refine ⟨crcSteps_xor 8, fun c d => crcSteps_inj, fun c => ⟨crcStep_getLsbD_top c, fun k _ => crcStep_getLsbD c k⟩,
    fun s t h => ?_, fun m n e => crcFrom_zero_one_byte_ne m n, fun p q a b hab h => hab (crcFrom_byte_inj h)⟩
  rw [crc16, crc16, crcFrom_xor h, BitVec.xor_self]
  rfl

/-- Settles O26: the table-driven step, after the two equations of the loop over the bytes. -/
theorem crcByteStepEqualsTableStep : Obligations.CrcByteStepEqualsTableStep :=
  ⟨rfl, fun s b => crc16_append s [b], crcByte_eq_table⟩

/-- Settles O27: each of the two bytes cancels the register's low byte, and two shifts leave nothing. -/
theorem crcResidueIsZero : Obligations.CrcResidueIsZero := by
  intro s
  rw [crc16_append, crcFrom_cons, crcFrom_cons, crcFrom_nil, crcByte_own_low, crcByte_own_low,
    ← BitVec.shiftRight_add]
  exact BitVec.ushiftRight_eq_zero (Nat.le_refl 16)

/-! The CRC command (R143). -/

/-- Every command ends in a completion, whose RESULT and DCAUSE are those it leaves (R122). -/
theorem completes_of_exec {i : Instr} {s t : State} (h : exec i s = .next t) : Completes s t t.result t.dcause := by
  obtain ⟨ctrl, cmd, werr, in_len, params, epoch, free_reads, schedule, host, busy, done, pending⟩ := exec_untouched h
  exact { result := rfl, dcause := rfl, ctrl, cmd, werr, in_len, params, epoch, free_reads, schedule, host, busy, done,
          pending }

/-- The bytes of IN, as reads of single bytes. -/
theorem inBytes_eq_map (s : State) (lo n : Nat) :
    s.inBytes lo n = (List.range n).map fun k => s.inByte (lo + k) := by
  simp only [State.inBytes, State.bytesFrom, State.inByte, Nat.add_assoc]

/-- Settles O9: the bytes of IN from index 0 on are those the command runs the register over. -/
theorem crcCommandComputesTheChecksumOfIn : Obligations.CrcCommandComputesTheChecksumOfIn := by
  intro s
  have hbytes : s.inBytes 0 s.len = (List.range s.inLen.toNat).map fun k => s.inByte k := by
    simp only [inBytes_eq_map, State.len, Nat.zero_add]
  have hexec : exec .crc s = .next (State.complete .ok 0 { s with calcCrc := crc16 (s.inBytes 0 s.len) }) := rfl
  refine ⟨_, hexec, completes_of_exec hexec, congrArg crc16 hbytes, fun hempty => ?_, rfl, ⟨rfl, rfl, rfl⟩, fun _ => rfl⟩
  rw [State.complete_calcCrc, hbytes, hempty]
  rfl

end Sys2Proof.Machine
end

section
/-! SUPPORT. DECODE in the words of the spec: the accepted delimiter bytes, the two checksums, the frames it accepts and
what each outcome commits; one changed byte of an accepted frame; the frame that ENCODE makes of a decoded one. -/

namespace Sys2Proof.Machine

/-! The checks (R162 to R165). -/

/-- A byte has every bit of START exactly when it is START with any of the two bits that START lacks (R163). -/
theorem and_startByte_eq_iff : ∀ b : Byte, b &&& 0x7B = 0x7B ↔ b ∈ [(0x7B : Byte), 0x7F, 0xFB, 0xFF] := by decide

/-- A byte has every bit of END exactly when it is END with any of the two bits that END lacks (R163). -/
theorem and_endByte_eq_iff : ∀ b : Byte, b &&& 0x7D = 0x7D ↔ b ∈ [(0x7D : Byte), 0x7F, 0xFD, 0xFF] := by decide

theorem maskFails_iff (b sentinel : Byte) : maskFails b sentinel = true ↔ b &&& sentinel ≠ sentinel := bne_iff_ne

theorem not_maskFails_iff (b sentinel : Byte) : maskFails b sentinel = false ↔ b &&& sentinel = sentinel :=
  bne_eq_false_iff_eq

/-- No delimiter condition holds exactly when the delimiters are accepted ones (R163). -/
theorem wireCause_eq_zero_iff (s : State) : s.wireCause = 0 ↔ s.delimitersAccepted := by
  rw [State.wireCause, delimiterCause_eq_zero, not_maskFails_iff, not_maskFails_iff, bne_eq_false_iff_eq,
    bne_eq_false_iff_eq]
  exact and_congr (and_startByte_eq_iff _) (and_congr_right' (and_congr_left' (and_endByte_eq_iff _)))

/-- The checksum read from the wire is the one the frame carries (R164). -/
theorem wireChecksum_eq_carried (s : State) : s.wireChecksum = s.carriedChecksum := rfl

/-- The checksum over the function and data fields is the computed one (R165). -/
theorem crc16_wireCovered (s : State) : crc16 s.wireCovered = s.computedChecksum :=
  congrArg crc16 (inBytes_eq_map s 2 (s.len - 6))

/-- The lower byte of a checksum read from two bytes (R96). -/
theorem crcLo_crcOfBytes (lo hi : Byte) : crcLo (crcOfBytes lo hi) = lo := by
  apply BitVec.eq_of_getLsbD_eq
  intro i hi8
  simp [crcLo, crcOfBytes, hi8]

/-- The higher byte of a checksum read from two bytes (R96). -/
theorem crcHi_crcOfBytes (lo hi : Byte) : crcHi (crcOfBytes lo hi) = hi := by
  apply BitVec.eq_of_getLsbD_eq
  intro i hi8
  have hplace : 8 + i < 16 := by omega
  simp [crcHi, crcOfBytes, hi8, hplace, Nat.lt_of_add_left_lt hplace]

theorem crcLo_carriedChecksum (s : State) : crcLo s.carriedChecksum = s.inByte (s.len - 4) := crcLo_crcOfBytes ..

theorem crcHi_carriedChecksum (s : State) : crcHi s.carriedChecksum = s.inByte (s.len - 3) := crcHi_crcOfBytes ..

/-! The outcomes (R160, R168). -/

/-- The frame in IN passes all three checks of DECODE (R168). -/
structure State.WireAccepted (s : State) : Prop where
  length : 7 ≤ s.len
  delimiters : s.delimitersAccepted
  checksum : s.carriedChecksum = s.computedChecksum

/-- What DECODE can do, with the conditions as the spec words them (R160, R163 to R165). -/
theorem decode_cases {s t : State} (h : exec .decode s = .next t) :
    (s.len < 7 ∧ t = s.complete .frameTooShort 0) ∨
    (7 ≤ s.len ∧ ¬s.delimitersAccepted ∧ t = s.complete .delimiterError s.wireCause) ∨
    (7 ≤ s.len ∧ s.delimitersAccepted ∧ s.carriedChecksum ≠ s.computedChecksum ∧
      t = s.stageChecksums.complete .checksumMismatch 0) ∨
    (s.WireAccepted ∧ t = s.stageChecksums.stageFrame.complete .ok 0) := by
  rcases execDecode_cases h with ⟨hlen, e⟩ | ⟨hlen, hcause, e⟩ | ⟨hlen, hcause, hsum, e⟩ | ⟨hlen, hcause, hsum, e⟩
  · exact .inl ⟨hlen, e⟩
  · exact .inr (.inl ⟨hlen, mt (wireCause_eq_zero_iff s).2 hcause, e⟩)
  · exact .inr (.inr (.inl ⟨hlen, (wireCause_eq_zero_iff s).1 hcause, crc16_wireCovered s ▸ hsum, e⟩))
  · exact .inr (.inr (.inr ⟨⟨hlen, (wireCause_eq_zero_iff s).1 hcause, hsum.trans (crc16_wireCovered s)⟩, e⟩))

/-- DECODE's result is that of its first failing step (R168). -/
theorem decode_result {s t : State} (h : exec .decode s = .next t) :
    t.result = if s.len < 7 then 1 else if ¬s.delimitersAccepted then 2
      else if s.carriedChecksum ≠ s.computedChecksum then 3 else 0 := by
  rcases decode_cases h with ⟨hlen, rfl⟩ | ⟨hlen, hdelim, rfl⟩ | ⟨hlen, hdelim, hsum, rfl⟩ | ⟨⟨hlen, hdelim, hsum⟩, rfl⟩
  · rw [if_pos hlen]; rfl
  · rw [if_neg (Nat.not_lt.2 hlen), if_pos hdelim]; rfl
  · rw [if_neg (Nat.not_lt.2 hlen), if_neg (not_not.2 hdelim), if_pos hsum]; rfl
  · rw [if_neg (Nat.not_lt.2 hlen), if_neg (not_not.2 hdelim), if_neg (not_not.2 hsum)]; rfl

/-- The result of an accepted frame is OK, and that of no other (R168). -/
theorem decode_ok_iff {s t : State} (h : exec .decode s = .next t) : t.result = 0 ↔ s.WireAccepted := by
  constructor
  · intro hok
    rcases decode_cases h with ⟨-, rfl⟩ | ⟨-, -, rfl⟩ | ⟨-, -, -, rfl⟩ | ⟨hacc, -⟩
    · simp [ResultCode.bits] at hok
    · simp [ResultCode.bits] at hok
    · simp [ResultCode.bits] at hok
    · exact hacc
  · intro ⟨hlen, hdelim, hsum⟩
    rw [decode_result h, if_neg (Nat.not_lt.2 hlen), if_neg (not_not.2 hdelim), if_neg (not_not.2 hsum)]

/-- The result of a frame that is long enough but has other delimiters (R168). -/
theorem decode_delimiterError {s t : State} (h : exec .decode s = .next t) (hlen : 7 ≤ s.len)
    (hdelim : ¬s.delimitersAccepted) : t.result = 2 := by
  rw [decode_result h, if_neg (Nat.not_lt.2 hlen), if_pos hdelim]

/-- The result of a frame that fails at the comparison only (R168). -/
theorem decode_checksumMismatch {s t : State} (h : exec .decode s = .next t) (hlen : 7 ≤ s.len)
    (hdelim : s.delimitersAccepted) (hsum : s.carriedChecksum ≠ s.computedChecksum) : t.result = 3 := by
  rw [decode_result h, if_neg (Nat.not_lt.2 hlen), if_neg (not_not.2 hdelim), if_pos hsum]

/-- A DECODE that passes its length check records the delimiter conditions in DCAUSE (R162). -/
theorem decode_dcause {s t : State} (h : exec .decode s = .next t) (hlen : 7 ≤ s.len) : t.dcause = s.wireCause := by
  rcases decode_cases h with ⟨hshort, -⟩ | ⟨-, -, rfl⟩ | ⟨-, hdelim, -, rfl⟩ | ⟨hacc, rfl⟩
  · exact absurd hlen (Nat.not_le.2 hshort)
  · rfl
  · exact ((wireCause_eq_zero_iff s).2 hdelim).symm
  · exact ((wireCause_eq_zero_iff s).2 hacc.delimiters).symm

/-- DCAUSE is non-zero with DELIMITER_ERROR only (R30). -/
theorem decode_delimiterError_iff {s t : State} (h : exec .decode s = .next t) : t.result = 2 ↔ t.dcause ≠ 0 := by
  obtain ⟨c, hresult, hcause, -⟩ := exec_result h
  rw [hresult, hcause]
  exact resultBits_inj c .delimiterError

/-- A DECODE that does not end with OK stages no part of the frame (R169). -/
theorem decode_failed_keeps_frame {s t : State} (h : exec .decode s = .next t) (hfail : t.result ≠ 0) :
    SameLengthsAndFunc s t ∧ SameBytes s t := by
  rcases decode_cases h with ⟨-, rfl⟩ | ⟨-, -, rfl⟩ | ⟨-, -, -, rfl⟩ | ⟨-, rfl⟩
  · exact ⟨⟨rfl, rfl, rfl⟩, fun _ => rfl⟩
  · exact ⟨⟨rfl, rfl, rfl⟩, fun _ => rfl⟩
  · exact ⟨⟨rfl, rfl, rfl⟩, fun _ => rfl⟩
  · exact absurd rfl hfail

/-- A DECODE that ends before the comparison stages no checksum (R169). -/
theorem decode_early_keeps_checksums {s t : State} (h : exec .decode s = .next t) (hearly : t.result = 1 ∨ t.result = 2) :
    SameChecksums s t := by
  rcases decode_cases h with ⟨-, rfl⟩ | ⟨-, -, rfl⟩ | ⟨-, -, -, rfl⟩ | ⟨-, rfl⟩
  · exact ⟨rfl, rfl⟩
  · exact ⟨rfl, rfl⟩
  · exact absurd hearly (by simp [ResultCode.bits])
  · exact absurd hearly (by simp [ResultCode.bits])

/-- A DECODE that reaches the comparison commits both checksums, whatever its outcome (R166). -/
theorem decode_commits_checksums {s t : State} (h : exec .decode s = .next t) (hlen : 7 ≤ s.len)
    (hdelim : s.delimitersAccepted) : t.rxCrc = s.carriedChecksum ∧ t.calcCrc = s.computedChecksum := by
  rcases decode_cases h with ⟨hshort, -⟩ | ⟨-, hother, -⟩ | ⟨-, -, -, rfl⟩ | ⟨-, rfl⟩
  · exact absurd hlen (Nat.not_le.2 hshort)
  · exact absurd hdelim hother
  · exact ⟨rfl, crc16_wireCovered s⟩
  · exact ⟨rfl, crc16_wireCovered s⟩

/-- The state after the DECODE of an accepted frame (R167). -/
theorem decode_accepted {s : State} (hacc : s.WireAccepted) :
    exec .decode s = .next (s.stageChecksums.stageFrame.complete .ok 0) :=
  execDecode_ok hacc.length ((wireCause_eq_zero_iff s).2 hacc.delimiters)
    (hacc.checksum.trans (crc16_wireCovered s).symm)

/-- Settles O10: the length check comes first. -/
theorem decodeRejectsShortFrames : Obligations.DecodeRejectsShortFrames := by
  intro s hshort
  have hexec : exec .decode s = .next (s.complete .frameTooShort 0) := execDecode_short hshort
  exact ⟨_, hexec, completes_of_exec hexec, ⟨rfl, rfl, rfl⟩, ⟨rfl, rfl⟩, fun _ => rfl⟩

/-- Settles O11: DCAUSE holds the four conditions, and is what decides between DELIMITER_ERROR and the rest. -/
theorem decodeReportsAllDelimiterConditions : Obligations.DecodeReportsAllDelimiterConditions := by
  intro s hlen
  obtain ⟨t, ht⟩ := exec_next .decode s
  have hiff := decode_delimiterError_iff ht
  obtain ⟨hstartMask, hstartEq, hendMask, hendEq⟩ :=
    delimiterCause_bits (s.inByte 0) (s.inByte 1) (s.inByte (s.len - 2)) (s.inByte (s.len - 1))
  rw [← State.wireCause, ← decode_dcause ht hlen] at hstartMask hstartEq hendMask hendEq
  refine ⟨t, ht, ?_, ?_, ?_, ?_, hiff, fun hcause => ?_⟩
  · rw [hstartMask]; exact maskFails_iff ..
  · rw [hstartEq]; exact bne_iff_ne
  · rw [hendMask]; exact maskFails_iff ..
  · rw [hendEq]; exact bne_iff_ne
  · have hresult : t.result = 2 := hiff.2 hcause
    obtain ⟨hregs, hbytes⟩ := decode_failed_keeps_frame ht (by rw [hresult]; decide)
    exact ⟨hresult ▸ completes_of_exec ht, hregs, decode_early_keeps_checksums ht (.inr hresult), hbytes⟩

/-- Settles O12: byte by byte, and the pairs from the four conditions. -/
theorem acceptedDelimiterBytes : Obligations.AcceptedDelimiterBytes :=
  ⟨and_startByte_eq_iff, and_endByte_eq_iff, wireCause_eq_zero_iff⟩

/-- Settles O13: both outcomes of the comparison commit both checksums. -/
theorem decodeComparesTheChecksums : Obligations.DecodeComparesTheChecksums := by
  intro s hlen hdelim
  have hlen : 7 ≤ s.len := hlen
  obtain ⟨t, ht⟩ := exec_next .decode s
  obtain ⟨hrx, hcalc⟩ := decode_commits_checksums ht hlen hdelim
  have hcause : t.dcause = 0 := (decode_dcause ht hlen).trans ((wireCause_eq_zero_iff s).2 hdelim)
  have hdone : Completes s t t.result 0 := hcause ▸ completes_of_exec ht
  refine ⟨t, ht, hrx, hcalc, fun hne => ?_, fun heq => ?_⟩
  · have hresult : t.result = 3 := decode_checksumMismatch ht hlen hdelim hne
    exact ⟨hresult ▸ hdone, decode_failed_keeps_frame ht (by rw [hresult]; decide)⟩
  · have hresult : t.result = 0 := (decode_ok_iff ht).2 ⟨hlen, hdelim, heq⟩
    exact ⟨hresult ▸ hdone, hrx.trans (heq.trans hcalc.symm)⟩

/-- Settles O14: the staged frame, its payload written from DATA on and nowhere else. -/
theorem decodeDemultiplexesTheFrame : Obligations.DecodeDemultiplexesTheFrame := by
  intro s hlen hdelim hsum
  have hexec := decode_accepted ⟨hlen, hdelim, hsum⟩
  have hdataLen : (s.inLen - 7).toNat = s.inLen.toNat - 7 := payload_length_toNat hlen
  refine ⟨_, hexec, completes_of_exec hexec, rfl, hdataLen, fun k => dataByte_stageFrame (s := s.stageChecksums),
    fun hfits => ?_, rfl, (crc16_wireCovered s).trans hsum.symm, rfl, fun a houtside => ?_⟩
  · have hcap := bufBytes_bounds s.params
    have hdata : (s.inLen - 7).toNat ≤ s.params.maxData.val := by omega
    exact hdata
  · rw [byteAt_complete, byteAt_stageFrame, byteAt_setBytes_outside, byteAt_stageChecksums]
    rwa [wirePayload_stageChecksums, wirePayload_length]

/-- Settles O15: the result of the first failing step. -/
theorem decodeReportsTheFirstFailingStep : Obligations.DecodeReportsTheFirstFailingStep := by
  intro s
  obtain ⟨t, ht⟩ := exec_next .decode s
  exact ⟨t, ht, decode_result ht⟩

/-- Settles O16: only the last step of DECODE stages the frame, and only the comparison stages the checksums. -/
theorem failedDecodeKeepsTheFrame : Obligations.FailedDecodeKeepsTheFrame := by
  intro s
  obtain ⟨t, ht⟩ := exec_next .decode s
  refine ⟨t, ht, fun hfail => ?_, decode_early_keeps_checksums ht⟩
  obtain ⟨⟨hfunc, hdataLen, -⟩, hbytes⟩ := decode_failed_keeps_frame ht hfail
  exact ⟨hfunc, hdataLen, hbytes⟩

/-- Settles O19: at seven bytes the covered field is the function byte alone, and the checksum is at 3 and 4. -/
theorem minimumLengthBoundary : Obligations.MinimumLengthBoundary := by
  intro s
  obtain ⟨t, ht⟩ := exec_next .decode s
  refine ⟨t, ht, fun hshort => (decode_result ht).trans (if_pos hshort), fun hlen hdelim => ?_⟩
  have hlen : s.len = 7 := hlen
  have hcarried : s.carriedChecksum = (s.inByte 3).setWidth 16 ||| ((s.inByte 4).setWidth 16 <<< 8) := by
    rw [State.carriedChecksum, hlen]
  have hcomputed : s.computedChecksum = crc16 [s.inByte 2] := by rw [State.computedChecksum, hlen]; rfl
  rw [← hcarried, ← hcomputed]
  constructor
  · exact fun ⟨hok, _, _⟩ => ((decode_ok_iff ht).1 hok).checksum
  · intro hsum
    have hacc : s.WireAccepted := ⟨hlen.ge, hdelim, hsum⟩
    rw [decode_accepted hacc] at ht
    injection ht with ht
    subst ht
    have hzero : s.inLen - 7 = 0 := by
      rw [State.len] at hlen
      bv_omega
    exact ⟨rfl, rfl, hzero⟩

/-! Consecutive bytes of IN. -/

@[simp] theorem inBytes_length (s : State) (lo n : Nat) : (s.inBytes lo n).length = n := bytesFrom_length ..

theorem inBytes_getElem (s : State) (lo n k : Nat) (h : k < (s.inBytes lo n).length) :
    (s.inBytes lo n)[k] = s.inByte (lo + k) := by
  rw [State.inByte, ← Nat.add_assoc]
  exact bytesFrom_getElem ..

theorem wireCovered_getElem (s : State) (k : Nat) (h : k < s.wireCovered.length) :
    s.wireCovered[k] = s.inByte (2 + k) := inBytes_getElem ..

/-- Consecutive bytes of IN are cut at any index. -/
theorem inBytes_add (s : State) (lo m n : Nat) : s.inBytes lo (m + n) = s.inBytes lo m ++ s.inBytes (lo + m) n := by
  simp only [inBytes_eq_map, List.range_add, List.map_append, List.map_map, Function.comp_def, Nat.add_assoc]

theorem inBytes_two (s : State) (lo : Nat) : s.inBytes lo 2 = [s.inByte lo, s.inByte (lo + 1)] :=
  inBytes_eq_map s lo 2

/-! One changed byte of the frame in IN (R172, R173). -/

/-- The frame in IN with the byte at one index replaced. -/
def State.withInByte (s : State) (k : Nat) (b : Byte) : State := s.setBytes (Config.inBase + k) [b]

section withInByte
variable {s : State} {k : Nat} {b : Byte}

@[simp] theorem len_withInByte : (s.withInByte k b).len = s.len := rfl

theorem inByte_withInByte_same : (s.withInByte k b).inByte k = b :=
  byteAt_setBytes_inside (k := 0) (bs := [b]) Nat.zero_lt_one

theorem inByte_withInByte_other {j : Nat} (h : j ≠ k) : (s.withInByte k b).inByte j = s.inByte j :=
  byteAt_setBytes_outside (by simp only [List.length_singleton]; omega)

/-- Two equal bytes differ once exactly one of them is changed (R172). -/
theorem pair_differs_of_changed {i j : Nat} (hij : j ≠ i) (heq : s.inByte j = s.inByte i) (hk : k = i ∨ k = j)
    (hb : b ≠ s.inByte k) : (s.withInByte k b).inByte j ≠ (s.withInByte k b).inByte i := by
  rcases hk with rfl | rfl
  · rw [inByte_withInByte_same, inByte_withInByte_other hij, heq]
    exact hb.symm
  · rw [inByte_withInByte_same, inByte_withInByte_other hij.symm, ← heq]
    exact hb

/-- A change between the delimiters keeps them (R173). -/
theorem delimitersAccepted_withInByte (h2 : 2 ≤ k) (hk : k < s.len - 2) (h : s.delimitersAccepted) :
    (s.withInByte k b).delimitersAccepted := by
  rw [State.delimitersAccepted, len_withInByte, inByte_withInByte_other (by omega), inByte_withInByte_other (by omega),
    inByte_withInByte_other (by omega), inByte_withInByte_other (by omega)]
  exact h

/-- The covered field takes the change at its own index, two less than that in IN (R97). -/
theorem wireCovered_withInByte (h2 : 2 ≤ k) : (s.withInByte k b).wireCovered = s.wireCovered.set (k - 2) b := by
  refine List.ext_getElem (by simp) fun j hj _ => ?_
  rw [List.getElem_set, wireCovered_getElem, wireCovered_getElem]
  split
  · next hjk =>
    obtain rfl : 2 + j = k := by omega
    exact inByte_withInByte_same
  · exact inByte_withInByte_other (by omega)

/-- The CRC tells a sequence from one with one of its bytes replaced by another (R145). -/
theorem crc16_set_ne {l : List Byte} {i : Nat} (hi : i < l.length) (hb : b ≠ l[i]) : crc16 (l.set i b) ≠ crc16 l := by
  have hshape (a : Byte) : l.set i a = l.take i ++ a :: l.drop (i + 1) := List.set_eq_take_cons_drop a hi
  intro h
  rw [← List.set_getElem_self hi, List.set_set, hshape, hshape] at h
  exact hb (crcFrom_byte_inj h)

/-- A change in the function or data field changes the computed checksum (R173). -/
theorem computedChecksum_withInByte_ne (h2 : 2 ≤ k) (hk : k < s.len - 4) (hb : b ≠ s.inByte k) :
    (s.withInByte k b).computedChecksum ≠ s.computedChecksum := by
  have hi : k - 2 < s.wireCovered.length := by rw [wireCovered_length]; omega
  have hread : s.wireCovered[k - 2] = s.inByte k := by rw [wireCovered_getElem, Nat.add_sub_cancel' h2]
  rw [← crc16_wireCovered, ← crc16_wireCovered, wireCovered_withInByte h2]
  exact crc16_set_ne hi (hread ▸ hb)

/-- A change above the data field keeps the computed checksum (R173). -/
theorem computedChecksum_withInByte_eq (h2 : 2 ≤ k) (hk : s.len - 4 ≤ k) :
    (s.withInByte k b).computedChecksum = s.computedChecksum := by
  rw [← crc16_wireCovered, ← crc16_wireCovered, wireCovered_withInByte h2,
    List.set_eq_of_length_le (by rw [wireCovered_length]; omega)]

/-- A change below the checksum field keeps the carried checksum (R173). -/
theorem carriedChecksum_withInByte_eq (hk : k < s.len - 4) :
    (s.withInByte k b).carriedChecksum = s.carriedChecksum := by
  rw [State.carriedChecksum, len_withInByte, inByte_withInByte_other (by omega), inByte_withInByte_other (by omega)]
  rfl

/-- A change in the checksum field changes the carried checksum (R173). -/
theorem carriedChecksum_withInByte_ne (hk : k = s.len - 4 ∨ k = s.len - 3) (hb : b ≠ s.inByte k) :
    (s.withInByte k b).carriedChecksum ≠ s.carriedChecksum := by
  intro h
  rcases hk with rfl | rfl
  · have hlo := congrArg crcLo h
    rw [crcLo_carriedChecksum, crcLo_carriedChecksum, len_withInByte, inByte_withInByte_same] at hlo
    exact hb hlo
  · have hhi := congrArg crcHi h
    rw [crcHi_carriedChecksum, crcHi_carriedChecksum, len_withInByte, inByte_withInByte_same] at hhi
    exact hb hhi

end withInByte

/-- Settles O17: the changed byte no longer equals its partner. -/
theorem oneChangedDelimiterByteIsADelimiterError : Obligations.OneChangedDelimiterByteIsADelimiterError := by
  intro s t k b ht hok hk hb
  obtain ⟨hlen, ⟨-, hstart, -, hend⟩, -⟩ := (decode_ok_iff ht).1 hok
  obtain ⟨u, hu⟩ := exec_next .decode (s.withInByte k b)
  refine ⟨u, hu, decode_delimiterError hu hlen fun ⟨_, hstart', _, hend'⟩ => ?_⟩
  rw [len_withInByte] at hend'
  have hk : (k = 0 ∨ k = 1) ∨ (k = s.len - 2 ∨ k = s.len - 1) := or_assoc.2 hk
  rcases hk with hk | hk
  · exact pair_differs_of_changed (by omega) hstart hk hb hstart'
  · exact pair_differs_of_changed (by omega) hend hk hb hend'

/-- Settles O18: the change keeps the delimiters and reaches exactly one of the two checksums. -/
theorem oneChangedInnerByteIsAChecksumMismatch : Obligations.OneChangedInnerByteIsAChecksumMismatch := by
  intro s t k b ht hok h2 hk hb
  have hk : k ≤ s.len - 3 := hk
  obtain ⟨hlen, hdelim, hsum⟩ := (decode_ok_iff ht).1 hok
  obtain ⟨hrx, hcalc⟩ := decode_commits_checksums ht hlen hdelim
  obtain ⟨u, hu⟩ := exec_next .decode (s.withInByte k b)
  have hdelim' : (s.withInByte k b).delimitersAccepted := delimitersAccepted_withInByte h2 (by omega) hdelim
  obtain ⟨hrx', hcalc'⟩ := decode_commits_checksums hu hlen hdelim'
  refine ⟨u, hu, ?_⟩
  rw [hrx, hcalc, hrx', hcalc']
  by_cases hfield : k < s.len - 4
  · have hcomputed := computedChecksum_withInByte_ne h2 hfield hb
    have hcarried := carriedChecksum_withInByte_eq (b := b) hfield
    refine ⟨decode_checksumMismatch hu hlen hdelim' ?_, fun _ => ⟨hcomputed, hcarried⟩,
      fun habove => absurd hfield (Nat.not_lt.2 habove)⟩
    rw [hcarried, hsum]
    exact hcomputed.symm
  · have hcomputed := computedChecksum_withInByte_eq (b := b) h2 (Nat.le_of_not_lt hfield)
    have hcarried := carriedChecksum_withInByte_ne (by omega) hb
    refine ⟨decode_checksumMismatch hu hlen hdelim' ?_, fun hbelow => ?_, fun _ => ⟨hcomputed, hcarried⟩⟩
    · rw [hcomputed, ← hsum]
      exact hcarried
    · have hbelow : k ≤ s.len - 5 := hbelow
      omega

/-! ENCODE after DECODE (R175, R193). -/

/-- The logical frame that a successful DECODE leaves covers the bytes that the wire checksum covers (R97, R167). -/
theorem covered_of_decoded {s : State} (hlen : 7 ≤ s.len) :
    (s.stageChecksums.stageFrame.complete .ok 0).frame.covered = s.wireCovered := by
  have hdata : (s.stageChecksums.stageFrame.complete .ok 0).frame.data = s.wirePayload := by
    have hdataLen : (s.inLen - 7).toNat = s.len - 7 := payload_length_toNat hlen
    exact bytesFrom_setBytes s.stageChecksums Config.dataBase
      (by rw [wirePayload_stageChecksums, wirePayload_length, ← hdataLen]; rfl)
  have hcut : s.wireCovered = s.inBytes 2 1 ++ s.wirePayload := by
    rw [State.wireCovered, show s.len - 6 = 1 + (s.len - 7) by omega, inBytes_add]; rfl
  rw [Frame.covered, hdata, hcut]
  rfl

/-- The frame in IN with ENCODE's delimiters in place of its own (R193). -/
def State.normalisedFrame (s : State) : List Byte :=
  [Config.startByte, Config.startByte] ++ s.inBytes 2 (s.len - 4) ++ [Config.endByte, Config.endByte]

/-- Between the delimiters, a normalised frame is the frame in IN. -/
theorem normalisedFrame_inner {s : State} {k : Nat} (h2 : 2 ≤ k) (hk : k < s.len - 2) :
    s.normalisedFrame[k]? = some (s.inByte k) := by
  obtain ⟨j, rfl⟩ := Nat.exists_eq_add_of_le h2
  have hstart : [Config.startByte, Config.startByte].length = 2 := rfl
  have hj : j < (s.inBytes 2 (s.len - 4)).length := by rw [inBytes_length]; omega
  rw [State.normalisedFrame, List.append_assoc, List.getElem?_append_right h2, hstart, Nat.add_sub_cancel_left,
    List.getElem?_append_left hj, List.getElem?_eq_getElem hj, inBytes_getElem]

/-- A normalised frame ends with END twice (R192). -/
theorem normalisedFrame_end {s : State} (hlen : 7 ≤ s.len) :
    s.normalisedFrame[s.len - 2]? = some Config.endByte ∧ s.normalisedFrame[s.len - 1]? = some Config.endByte := by
  have hinner : ([Config.startByte, Config.startByte] ++ s.inBytes 2 (s.len - 4)).length = s.len - 2 := by
    rw [List.length_append, inBytes_length, List.length_cons, List.length_singleton]; omega
  rw [State.normalisedFrame]
  constructor
  · rw [List.getElem?_append_right hinner.le, hinner, Nat.sub_self]; rfl
  · rw [List.getElem?_append_right (by omega), hinner, show s.len - 1 - (s.len - 2) = 1 by omega]; rfl

/-- The wire frame of a decoded frame is the frame in IN, its delimiters normalised (R175, R193). -/
theorem wire_of_decoded {s : State} (hacc : s.WireAccepted) :
    (s.stageChecksums.stageFrame.complete .ok 0).frame.wire = s.normalisedFrame := by
  have hlen := hacc.length
  have hinner : s.inBytes 2 (s.len - 4) = s.wireCovered ++ [s.inByte (s.len - 4), s.inByte (s.len - 3)] := by
    have hcut : s.inBytes 2 (s.len - 6 + 2) = s.wireCovered ++ s.inBytes (2 + (s.len - 6)) 2 := inBytes_add ..
    rwa [show s.len - 6 + 2 = s.len - 4 by omega, show 2 + (s.len - 6) = s.len - 4 by omega, inBytes_two,
      show s.len - 4 + 1 = s.len - 3 by omega] at hcut
  rw [Frame.wire, covered_of_decoded hlen, crc16_wireCovered, ← hacc.checksum, crcLo_carriedChecksum,
    crcHi_carriedChecksum, State.normalisedFrame, hinner]
  simp only [List.append_assoc]

/-- Settles O22: OUT holds the wire frame of what DECODE left, read byte by byte. -/
theorem encodeAfterDecodeNormalisesDelimiters : Obligations.EncodeAfterDecodeNormalisesDelimiters := by
  intro s t _ ht hok
  have hacc := (decode_ok_iff ht).1 hok
  have hlen := hacc.length
  rw [decode_accepted hacc] at ht
  injection ht with ht
  have hwire : t.frame.wire = s.normalisedFrame := ht ▸ wire_of_decoded hacc
  have hdataLen : t.dataLen = s.inLen - 7 := ht ▸ rfl
  have hout {k : Nat} {b : Byte} (hk : k < s.len) (hb : s.normalisedFrame[k]? = some b) :
      (t.stageWire.complete .ok 0).outByte k = b := by
    have hbound : k < t.dataLen.toNat + 7 := by rw [hdataLen, payload_length_toNat hlen]; omega
    have hread := outByte_stageWire hbound
    rw [hwire, hb] at hread
    exact (Option.some.inj hread).symm
  obtain ⟨hend0, hend1⟩ := normalisedFrame_end hlen
  refine ⟨_, rfl, ?_, fun k h2 (hk : k < s.len - 2) => hout (by omega) (normalisedFrame_inner h2 hk),
    hout (by omega) rfl, hout (by omega) rfl, hout (k := s.len - 2) (by omega) hend0,
    hout (k := s.len - 1) (by omega) hend1⟩
  rw [State.complete_outLen, State.stageWire_outLen, hdataLen, BitVec.sub_add_cancel]

end Sys2Proof.Machine
end

section
/-! SUPPORT. ENCODE in the words of the spec: the fields of a wire frame by their index, the bytes that ENCODE leaves in
OUT, and the acceptance of every wire frame of a logical one by DECODE. -/

namespace Sys2Proof.Machine

/-- The two bytes of a checksum make the checksum again (R96). -/
theorem crcOfBytes_crcLo_crcHi (c : Half) : crcOfBytes (crcLo c) (crcHi c) = c := by
  apply BitVec.eq_of_getLsbD_eq
  intro i hi
  by_cases hlow : i < 8
  · simp [crcOfBytes, crcLo, hi, hlow]
  · have hplace : 8 + (i - 8) = i := by omega
    simp [crcOfBytes, crcLo, crcHi, hi, hlow, hplace, show i - 8 < 8 by omega]

/-! The fields of a wire frame (R94, R95). -/

/-- A wire frame is a header of three bytes, the payload and a trailer of four bytes (R94). -/
theorem wire_eq_header_payload_trailer (f : Frame) :
    f.wire = [Config.startByte, Config.startByte, f.function] ++
      (f.data ++ [crcLo (crc16 f.covered), crcHi (crc16 f.covered), Config.endByte, Config.endByte]) := by
  simp only [Frame.wire, Frame.covered, List.append_assoc, List.cons_append, List.nil_append]

theorem wire_header (f : Frame) {k : Nat} (hk : k < 3) :
    f.wire[k]? = [Config.startByte, Config.startByte, f.function][k]? := by
  rw [wire_eq_header_payload_trailer, List.getElem?_append_left hk]

theorem wire_payload (f : Frame) {k : Nat} (hk : k < f.data.length) : f.wire[3 + k]? = some f.data[k] := by
  have hheader : [Config.startByte, Config.startByte, f.function].length = 3 := rfl
  rw [wire_eq_header_payload_trailer, List.getElem?_append_right (by omega), hheader, Nat.add_sub_cancel_left,
    List.getElem?_append_left hk, List.getElem?_eq_getElem hk]

theorem wire_trailer (f : Frame) (j : Nat) :
    f.wire[f.data.length + 3 + j]? =
      [crcLo (crc16 f.covered), crcHi (crc16 f.covered), Config.endByte, Config.endByte][j]? := by
  have hbelow : ([Config.startByte, Config.startByte, f.function] ++ f.data).length = f.data.length + 3 := rfl
  rw [wire_eq_header_payload_trailer, ← List.append_assoc, List.getElem?_append_right (by omega), hbelow,
    Nat.add_sub_cancel_left]

/-- The bytes read from index 0 on are the wire frame of `f`. -/
def Frame.WireReads (f : Frame) (read : Nat → Byte) : Prop :=
  ∀ k < f.data.length + 7, f.wire[k]? = some (read k)

namespace Frame.WireReads
variable {f : Frame} {read : Nat → Byte} (h : f.WireReads read)
include h

theorem eq_of_wire {k : Nat} {b : Byte} (hk : k < f.data.length + 7) (hb : f.wire[k]? = some b) : read k = b :=
  Option.some.inj ((h k hk).symm.trans hb)

/-- A copy of a wire frame is a wire frame. -/
theorem copy {read' : Nat → Byte} (hcopy : ∀ k < f.data.length + 7, read' k = read k) : f.WireReads read' :=
  fun k hk => (hcopy k hk).symm ▸ h k hk

theorem start0 : read 0 = Config.startByte := h.eq_of_wire (by omega) (wire_header f (by omega))
theorem start1 : read 1 = Config.startByte := h.eq_of_wire (by omega) (wire_header f (by omega))
theorem function : read 2 = f.function := h.eq_of_wire (by omega) (wire_header f (by omega))

theorem payload {k : Nat} (hk : k < f.data.length) : read (3 + k) = f.data[k] :=
  h.eq_of_wire (by omega) (wire_payload f hk)

theorem checksumLo : read (f.data.length + 3) = crcLo (crc16 f.covered) := h.eq_of_wire (by omega) (wire_trailer f 0)
theorem checksumHi : read (f.data.length + 4) = crcHi (crc16 f.covered) := h.eq_of_wire (by omega) (wire_trailer f 1)
theorem end0 : read (f.data.length + 5) = Config.endByte := h.eq_of_wire (by omega) (wire_trailer f 2)
theorem end1 : read (f.data.length + 6) = Config.endByte := h.eq_of_wire (by omega) (wire_trailer f 3)

end Frame.WireReads

/-! ENCODE (R190 to R196). -/

theorem frame_data_getElem (s : State) {k : Nat} (hk : k < s.frame.data.length) : s.frame.data[k] = s.dataByte k :=
  bytesFrom_getElem ..

/-- A legal DATA_LEN leaves room for the seven other bytes of the frame in OUT_LEN (R5, R35). -/
theorem wire_length_toNat {s : State} (hlegal : s.dataLen.toNat ≤ s.params.maxData.val) :
    (s.dataLen + 7).toNat = s.dataLen.toNat + 7 := by
  have hcap := bufBytes_bounds s.params
  bv_omega

/-- After an ENCODE, OUT reads as the wire frame of the logical frame (R191, R192). -/
theorem wireReads_of_encode (s : State) : s.frame.WireReads (s.stageWire.complete .ok 0).outByte :=
  fun _ hk => outByte_stageWire (frame_data_length s ▸ hk)

/-- Settles O20: OUT is read field by field, and is the only buffer that the staging writes. -/
theorem encodeBuildsTheWireFrame : Obligations.EncodeBuildsTheWireFrame := by
  intro s hlegal n c
  have hexec : exec .encode s = .next (s.stageWire.complete .ok 0) := rfl
  have hout := wireReads_of_encode s
  have hn : s.frame.data.length = n := frame_data_length s
  have hlen : (s.dataLen + 7).toNat = n + 7 := wire_length_toNat hlegal
  have hcap := bufBytes_bounds s.params
  have hfits : (s.dataLen + 7).toNat ≤ s.params.bufBytes := by omega
  refine ⟨_, hexec, completes_of_exec hexec, hout.start0, hout.start1, hout.function, fun k hk => ?_,
    hn ▸ hout.checksumLo, hn ▸ hout.checksumHi, hn ▸ hout.end0, hn ▸ hout.end1, hlen, hfits, rfl, rfl, rfl, rfl,
    fun a houtside => ?_⟩
  · have hk : k < s.frame.data.length := hn ▸ hk
    exact (hout.payload hk).trans (frame_data_getElem s hk)
  · rw [byteAt_complete, byteAt_stageWire, byteAt_setBytes_outside]
    rwa [wire_length, hn]

/-! DECODE of a wire frame (R197). -/

section wireInput
variable {f : Frame} {u : State} (hlen : u.len = f.data.length + 7) (hin : f.WireReads u.inByte)
include hlen hin

/-- The bytes that the wire checksum covers are those that the logical frame's covers (R97). -/
theorem wireCovered_of_wireReads : u.wireCovered = f.covered := by
  refine List.ext_getElem ?_ fun k hk hkf => ?_
  · rw [wireCovered_length, hlen]; rfl
  · rw [wireCovered_getElem]
    cases k with
    | zero => exact hin.function
    | succ k =>
      rw [show 2 + (k + 1) = 3 + k by omega]
      exact hin.payload (Nat.lt_of_succ_lt_succ hkf)

/-- DECODE accepts the wire frame of every logical frame (R197). -/
theorem wireAccepted_of_wireReads : u.WireAccepted := by
  have hcarried : u.carriedChecksum = crc16 f.covered := by
    rw [← wireChecksum_eq_carried, State.wireChecksum, hlen, Nat.add_sub_assoc (by decide),
      Nat.add_sub_assoc (by decide), hin.checksumLo, hin.checksumHi, crcOfBytes_crcLo_crcHi]
  have hend0 : u.inByte (u.len - 2) = Config.endByte := hlen ▸ hin.end0
  have hend1 : u.inByte (u.len - 1) = Config.endByte := hlen ▸ hin.end1
  refine ⟨by omega, ?_, ?_⟩
  · rw [State.delimitersAccepted, hin.start0, hin.start1, hend0, hend1]
    decide
  · rw [hcarried, ← crc16_wireCovered, wireCovered_of_wireReads hlen hin]

end wireInput

/-- Settles O21: the copy in IN is an accepted frame, whose fields DECODE stages. -/
theorem decodeOfEncodeGivesTheFrameBack : Obligations.DecodeOfEncodeGivesTheFrameBack := by
  intro s t u hlegal ht hinLen hcopy
  injection ht with ht
  subst ht
  have houtLen : (s.dataLen + 7).toNat = s.frame.data.length + 7 :=
    (wire_length_toNat hlegal).trans (by rw [frame_data_length])
  have hinLen : u.inLen = s.dataLen + 7 := hinLen
  have hlen : u.len = s.frame.data.length + 7 := by rw [State.len, hinLen, houtLen]
  have hin : s.frame.WireReads u.inByte := (wireReads_of_encode s).copy fun k hk => hcopy k (houtLen.symm ▸ hk)
  refine ⟨_, decode_accepted (wireAccepted_of_wireReads hlen hin), rfl, hin.function, ?_, fun k hk => ?_⟩
  · show u.inLen - 7 = s.dataLen
    rw [hinLen, BitVec.add_sub_cancel]
  · have hk : k < s.frame.data.length := (frame_data_length s).symm ▸ hk
    calc u.stageChecksums.stageFrame.dataByte k
      _ = u.inByte (3 + k) := dataByte_stageFrame (s := u.stageChecksums) (by rw [len_stageChecksums]; omega)
      _ = s.frame.data[k] := hin.payload hk
      _ = s.dataByte k := frame_data_getElem s hk

end Sys2Proof.Machine
end

section
/-! SUPPORT. The block has no fatal outcome: every agent's turn takes a state of the invariant to a next state. -/

namespace Sys2Proof.Machine

/-- The engine's turn passes while no command runs (log 12). -/
theorem step_engine_idle {s : State} (ht : s.nextTurn = .engine) (hb : s.busy = false) :
    step s = .next s.dropTurn := by
  simp [step, ht, takeTurn, engineTurn, hb]

/-- Settles O55: a host's and a reset's turn never stop; the engine's passes while idle, and the invariant gives it the
opcode of a running command. -/
theorem invariantStatesNeverStop : Obligations.InvariantStatesNeverStop := by
  intro s hs
  cases ht : s.nextTurn with
  | host => exact ⟨_, step_host ht⟩
  | reset => exact ⟨_, step_reset ht⟩
  | engine =>
    cases hb : s.busy with
    | false => exact ⟨_, step_engine_idle ht hb⟩
    | true =>
      have hp : s.pendingOp = some s.cmdOp := by rw [hs.pending_matches, if_pos hb]
      obtain ⟨u, hstep, -⟩ := step_ends_command hb hp (.inl ht)
      exact ⟨u, hstep⟩

end Sys2Proof.Machine
end

section
/-! SUPPORT. Reset: what a register reads after it, and that the state it leaves, whatever ran before, and the one a run
begins with hold legal values. -/

namespace Sys2Proof.Machine

/-- RESET clears every field of STATUS (R241). -/
theorem statusWord_resetBlock (s : State) : s.resetBlock.statusWord = 0 := by simp [State.statusWord, flagBit]

/-- RESET leaves every register at 0 but the two constants (R23, R38, R241). -/
theorem regValue_resetBlock (s : State) (r : Reg) :
    s.resetBlock.regValue r =
      if r = .id then 0x41430001 else if r = .param then BitVec.ofNat 32 s.params.bufBytes else 0 := by
  cases r with
  | status => exact statusWord_resetBlock s
  | _ => rfl

/-- The state after reset is what a RESET makes of it, but for the count of the resets (log 19). -/
theorem resetWith_eq_resetBlock (p : Params) : State.resetWith p = { (State.resetWith p).resetBlock with epoch := 0 } :=
  rfl

/-- No register holds the count of the resets (R21; log 4). -/
theorem regValue_epoch (s : State) (k : Nat) (r : Reg) : State.regValue { s with epoch := k } r = s.regValue r := by
  cases r <;> rfl

/-- The invariant does not speak of the count of the resets (log 4). -/
theorem State.Inv.epoch {s : State} (hs : s.Inv) (k : Nat) : State.Inv { s with epoch := k } := { hs with }

/-- A register of the state after reset holds what a RESET gives it (R241). -/
theorem regValue_resetWith (p : Params) (r : Reg) :
    (State.resetWith p).regValue r =
      if r = .id then 0x41430001 else if r = .param then BitVec.ofNat 32 p.bufBytes else 0 := by
  rw [resetWith_eq_resetBlock, regValue_epoch, regValue_resetBlock]
  rfl

/-- The state after reset satisfies the invariant, as what a RESET leaves does (R241). -/
theorem resetWith_inv (p : Params) : (State.resetWith p).Inv := (resetBlock_inv (State.resetWith p)).epoch 0

/-- Settles O51: the reset's turn resets the block, which is idle then, so that each register reads as it holds. -/
theorem resetStepClearsEveryRegister : Obligations.ResetStepClearsEveryRegister := by
  intro s ht
  refine ⟨s.dropTurn.resetBlock, step_reset ht, rfl, rfl, rfl, rfl, fun r => ?_⟩
  have hstable := regUnstable_idle (State.resetBlock_busy s.dropTurn) r
  rw [memRead_regSymbol hstable, regValue_resetBlock]
  rfl

/-- Settles O52: the state after reset is idle, so that each register reads as it holds, and its memory lists no byte. -/
theorem resetRegistersReadZero : Obligations.ResetRegistersReadZero := by
  intro p r
  have hidle : (State.resetWith p).busy = false := rfl
  refine ⟨hidle, rfl, rfl, fun _ => rfl, ?_⟩
  rw [memRead_regSymbol (regUnstable_idle hidle r), regValue_resetWith]

/-- Settles O53: `State.reset` is the state after reset at one BUF_BYTES. -/
theorem invariantHoldsAtReset : Obligations.InvariantHoldsAtReset := ⟨resetWith_inv _, resetWith_inv⟩

end Sys2Proof.Machine
end
